-- ==== Sys2Proof/Word.lean ====
section
/-! DEFINITION. The two word widths of the CORE (spec/00_scope.md R7): a byte is 8 bits, a word is 16 bits. -/

namespace Sys2Proof

/-- An 8-bit value: a memory byte, a register A, X, Y, SP, the status byte P (R5, R7). -/
abbrev Byte := BitVec 8

/-- A 16-bit value: an address, the program counter (R5, R7). -/
abbrev Word := BitVec 16

end Sys2Proof
end

