-- ==== Sys2Proof/Config.lean ====
section
/-! DEFINITION. The parameters of spec/00_scope.md R6: what the source leaves open and the spec keeps as a named
parameter. They are plain data, carried in State and changed by nothing (notes/assumptions/1.md, DESIGN CHOICE), so
that a statement about every state is a statement about every parameter value. -/

namespace Sys2Proof

/-- `PAGE_PENALTY_MODE` (R6, R94): which instructions pay the page-crossing cycle. -/
inductive PagePenaltyMode where
  /-- every ABX, ABY and IZY instruction pays it -/
  | all
  /-- only the cells of R69 marked `+` pay it -/
  | readsOnly
deriving DecidableEq, Repr

/-- The parameter table of R6. -/
structure Config where
  /-- `SP_RESET` (D2) -/
  spReset : Byte
  /-- `P_RESET` (D3); bit 5 is forced to 1 when it is loaded (R241) -/
  pReset : Byte
  /-- `RESET_CYCLES` (D4) -/
  resetCycles : Nat
  /-- `IRQ_CYCLES` (D9) -/
  irqCycles : Nat
  /-- `NMI_CYCLES` (D9) -/
  nmiCycles : Nat
  /-- `BRK_PAD`, 0 or 1 (D11) -/
  brkPad : Fin 2
  /-- `IRQ_MASKED_HOLD` (D7) -/
  irqMaskedHold : Bool
  /-- `PAGE_PENALTY_MODE` (D15) -/
  pagePenalty : PagePenaltyMode
  /-- `BASE_CYCLES[256]`, indexed by opcode byte (D28) -/
  baseCycles : List Nat
  /-- `UNKNOWN_CYCLES` (D16) -/
  unknownCycles : Nat
deriving DecidableEq, Repr

/-- What R6's type column asks of the parameters: 256 base counts, and bit 5 of `P_RESET` set. -/
def Config.wf (c : Config) : Bool :=
  c.baseCycles.length == 256 && c.pReset.getLsbD 5

end Sys2Proof
end

