-- ==== Sys2Proof/Machine/Bits.lean ====
section
/-! DEFINITION. Byte order and extension helpers of spec/00_scope.md R7. -/

namespace Sys2Proof

/-- `lo(w)` = `w[7:0]` (R7). -/
def lo (w : Word) : Byte := w.extractLsb' 0 8

/-- `hi(w)` = `w[15:8]`, also the page an address lies in (R7, R9). -/
def hi (w : Word) : Byte := w.extractLsb' 8 8

/-- `(h << 8) | l`: the word with high byte `h` and low byte `l` (R7, R42). -/
def word (h l : Byte) : Word := h ++ l

/-- `zext_16(b)` (R7). -/
def zext16 (b : Byte) : Word := b.setWidth 16

/-- `sext_16(b)`: `b | 0xFF00` when bit 7 of `b` is set, else `b` (R7, R91). -/
def sext16 (b : Byte) : Word := b.signExtend 16

end Sys2Proof
end

