-- ==== Sys2Proof/Syntax.lean ====
section
/-! DEFINITION. The syntax of the CORE's instructions: mode tags, operation tags and the ONE inductive Instr.
spec/30_encoding.md R60 makes a descriptor out of an operation tag and a mode tag; a row of opcode_table.json is one
operation at one mode, so a constructor of Instr is an operation and its argument says the mode and the operand
bytes. Nothing here is a raw encoding. -/

namespace Sys2Proof

/-- The twelve addressing-mode tags (R80). -/
inductive Mode where
  | imm | zp | zpx | zpy | abs | abx | aby | ind | izx | izy | rel | imp
deriving DecidableEq, Repr

/-- The operation tags: the 56 of R68, `unknown` (R66) and `invalid` (R67: in the tag set, in no row of the table). -/
inductive Op where
  | adc | and | asl | bcc | bcs | beq | bit | bmi | bne | bpl | brk | bvc | bvs | clc
  | cld | cli | clv | cmp | cpx | cpy | dec | dex | dey | eor | inc | inx | iny | jmp
  | jsr | lda | ldx | ldy | lsr | nop | ora | pha | php | pla | plp | rol | ror | rti
  | rts | sbc | sec | sed | sei | sta | stx | sty | tax | tay | tsx | txa | txs | tya
  | unknown | invalid
deriving DecidableEq, Repr

/-- The mnemonic of a descriptor (R60, R68). -/
def Op.mnemonic : Op → String
  | .adc => "ADC"
  | .and => "AND"
  | .asl => "ASL"
  | .bcc => "BCC"
  | .bcs => "BCS"
  | .beq => "BEQ"
  | .bit => "BIT"
  | .bmi => "BMI"
  | .bne => "BNE"
  | .bpl => "BPL"
  | .brk => "BRK"
  | .bvc => "BVC"
  | .bvs => "BVS"
  | .clc => "CLC"
  | .cld => "CLD"
  | .cli => "CLI"
  | .clv => "CLV"
  | .cmp => "CMP"
  | .cpx => "CPX"
  | .cpy => "CPY"
  | .dec => "DEC"
  | .dex => "DEX"
  | .dey => "DEY"
  | .eor => "EOR"
  | .inc => "INC"
  | .inx => "INX"
  | .iny => "INY"
  | .jmp => "JMP"
  | .jsr => "JSR"
  | .lda => "LDA"
  | .ldx => "LDX"
  | .ldy => "LDY"
  | .lsr => "LSR"
  | .nop => "NOP"
  | .ora => "ORA"
  | .pha => "PHA"
  | .php => "PHP"
  | .pla => "PLA"
  | .plp => "PLP"
  | .rol => "ROL"
  | .ror => "ROR"
  | .rti => "RTI"
  | .rts => "RTS"
  | .sbc => "SBC"
  | .sec => "SEC"
  | .sed => "SED"
  | .sei => "SEI"
  | .sta => "STA"
  | .stx => "STX"
  | .sty => "STY"
  | .tax => "TAX"
  | .tay => "TAY"
  | .tsx => "TSX"
  | .txa => "TXA"
  | .txs => "TXS"
  | .tya => "TYA"
  | .unknown => "UNKNOWN"
  | .invalid => "INVALID"

/-- An operand whose mode computes an effective address from operand bytes, registers and memory (R82 to R90). -/
inductive MemArg where
  /-- `$nn` (R82) -/
  | zp (b : Byte)
  /-- `$nn,X` (R83) -/
  | zpx (b : Byte)
  /-- `$nn,Y` (R84) -/
  | zpy (b : Byte)
  /-- `$hhll` (R85) -/
  | abs (w : Word)
  /-- `$hhll,X` (R86) -/
  | abx (w : Word)
  /-- `$hhll,Y` (R87) -/
  | aby (w : Word)
  /-- `($hhll)` (R88) -/
  | ind (w : Word)
  /-- `($nn,X)` (R89) -/
  | izx (b : Byte)
  /-- `($nn),Y` (R90) -/
  | izy (b : Byte)
deriving DecidableEq, Repr

/-- The operand of an operation that only reads it (R93): immediate (R81) or in memory. -/
inductive ReadArg where
  | imm (b : Byte)
  | mem (m : MemArg)
deriving DecidableEq, Repr

/-- The operand of a shift or rotate: the accumulator (mode IMP, R92) or a byte of memory (R124). -/
inductive ShiftArg where
  | acc
  | mem (m : MemArg)
deriving DecidableEq, Repr

/-- The mode tag of a memory operand. -/
def MemArg.mode : MemArg → Mode
  | .zp _ => .zp
  | .zpx _ => .zpx
  | .zpy _ => .zpy
  | .abs _ => .abs
  | .abx _ => .abx
  | .aby _ => .aby
  | .ind _ => .ind
  | .izx _ => .izx
  | .izy _ => .izy

/-- The mode tag of a read operand. -/
def ReadArg.mode : ReadArg → Mode
  | .imm _ => .imm
  | .mem m => m.mode

/-- The mode tag of a shift operand. -/
def ShiftArg.mode : ShiftArg → Mode
  | .acc => .imp
  | .mem m => m.mode

/-- The instructions: 56 operations (R68) and UNKNOWN with the unassigned byte it stands for (R66). The tag INVALID has
no row (R67) and so no constructor. A relative operand is its signed offset byte, unscaled (R91). -/
inductive Instr where
  -- arithmetic, logic, compare (41)
  /-- ADC, R100 -/
  | adc (o : ReadArg)
  /-- SBC, R101 -/
  | sbc (o : ReadArg)
  /-- AND, R103 -/
  | and (o : ReadArg)
  /-- ORA, R104 -/
  | ora (o : ReadArg)
  /-- EOR, R105 -/
  | eor (o : ReadArg)
  /-- BIT, R106 -/
  | bit (o : MemArg)
  /-- CMP, R107 -/
  | cmp (o : ReadArg)
  /-- CPX, R108 -/
  | cpx (o : ReadArg)
  /-- CPY, R109 -/
  | cpy (o : ReadArg)
  -- shift, rotate, increment, decrement (42)
  /-- ASL, R120 -/
  | asl (o : ShiftArg)
  /-- LSR, R121 -/
  | lsr (o : ShiftArg)
  /-- ROL, R122 -/
  | rol (o : ShiftArg)
  /-- ROR, R123 -/
  | ror (o : ShiftArg)
  /-- INC, R125 -/
  | inc (o : MemArg)
  /-- DEC, R126 -/
  | dec (o : MemArg)
  /-- INX, R127 -/
  | inx
  /-- INY, R128 -/
  | iny
  /-- DEX, R129 -/
  | dex
  /-- DEY, R130 -/
  | dey
  -- load, store, transfer (43)
  /-- LDA, R140 -/
  | lda (o : ReadArg)
  /-- LDX, R141 -/
  | ldx (o : ReadArg)
  /-- LDY, R142 -/
  | ldy (o : ReadArg)
  /-- STA, R143 -/
  | sta (o : MemArg)
  /-- STX, R144 -/
  | stx (o : MemArg)
  /-- STY, R145 -/
  | sty (o : MemArg)
  /-- TAX, R146 -/
  | tax
  /-- TAY, R147 -/
  | tay
  /-- TXA, R148 -/
  | txa
  /-- TYA, R149 -/
  | tya
  /-- TSX, R150 -/
  | tsx
  /-- TXS, R151 -/
  | txs
  -- stack and flags (44)
  /-- PHA, R160 -/
  | pha
  /-- PHP, R161 -/
  | php
  /-- PLA, R162 -/
  | pla
  /-- PLP, R163 -/
  | plp
  /-- CLC, R164 -/
  | clc
  /-- SEC, R165 -/
  | sec
  /-- CLI, R166 -/
  | cli
  /-- SEI, R167 -/
  | sei
  /-- CLV, R168 -/
  | clv
  /-- CLD, R169 -/
  | cld
  /-- SED, R170 -/
  | sed
  -- branches, jump, call, return (45)
  /-- BCC, R181 -/
  | bcc (off : Byte)
  /-- BCS, R182 -/
  | bcs (off : Byte)
  /-- BEQ, R183 -/
  | beq (off : Byte)
  /-- BNE, R184 -/
  | bne (off : Byte)
  /-- BMI, R185 -/
  | bmi (off : Byte)
  /-- BPL, R186 -/
  | bpl (off : Byte)
  /-- BVC, R187 -/
  | bvc (off : Byte)
  /-- BVS, R188 -/
  | bvs (off : Byte)
  /-- JMP, R189 -/
  | jmp (o : MemArg)
  /-- JSR, R190 -/
  | jsr (target : Word)
  /-- RTS, R191 -/
  | rts
  -- system (46)
  /-- BRK, R200 -/
  | brk
  /-- RTI, R201 -/
  | rti
  /-- NOP, R202 -/
  | nop
  /-- UNKNOWN, R203; `b` is the opcode byte -/
  | unknown (b : Byte)
deriving DecidableEq, Repr

/-- The operation tag of an instruction. -/
def Instr.op : Instr → Op
  | .adc _ => .adc
  | .sbc _ => .sbc
  | .and _ => .and
  | .ora _ => .ora
  | .eor _ => .eor
  | .bit _ => .bit
  | .cmp _ => .cmp
  | .cpx _ => .cpx
  | .cpy _ => .cpy
  | .asl _ => .asl
  | .lsr _ => .lsr
  | .rol _ => .rol
  | .ror _ => .ror
  | .inc _ => .inc
  | .dec _ => .dec
  | .inx => .inx
  | .iny => .iny
  | .dex => .dex
  | .dey => .dey
  | .lda _ => .lda
  | .ldx _ => .ldx
  | .ldy _ => .ldy
  | .sta _ => .sta
  | .stx _ => .stx
  | .sty _ => .sty
  | .tax => .tax
  | .tay => .tay
  | .txa => .txa
  | .tya => .tya
  | .tsx => .tsx
  | .txs => .txs
  | .pha => .pha
  | .php => .php
  | .pla => .pla
  | .plp => .plp
  | .clc => .clc
  | .sec => .sec
  | .cli => .cli
  | .sei => .sei
  | .clv => .clv
  | .cld => .cld
  | .sed => .sed
  | .bcc _ => .bcc
  | .bcs _ => .bcs
  | .beq _ => .beq
  | .bne _ => .bne
  | .bmi _ => .bmi
  | .bpl _ => .bpl
  | .bvc _ => .bvc
  | .bvs _ => .bvs
  | .jmp _ => .jmp
  | .jsr _ => .jsr
  | .rts => .rts
  | .brk => .brk
  | .rti => .rti
  | .nop => .nop
  | .unknown _ => .unknown

/-- The mode tag of an instruction. -/
def Instr.mode : Instr → Mode
  | .adc o => o.mode
  | .sbc o => o.mode
  | .and o => o.mode
  | .ora o => o.mode
  | .eor o => o.mode
  | .bit o => o.mode
  | .cmp o => o.mode
  | .cpx o => o.mode
  | .cpy o => o.mode
  | .asl o => o.mode
  | .lsr o => o.mode
  | .rol o => o.mode
  | .ror o => o.mode
  | .inc o => o.mode
  | .dec o => o.mode
  | .inx => .imp
  | .iny => .imp
  | .dex => .imp
  | .dey => .imp
  | .lda o => o.mode
  | .ldx o => o.mode
  | .ldy o => o.mode
  | .sta o => o.mode
  | .stx o => o.mode
  | .sty o => o.mode
  | .tax => .imp
  | .tay => .imp
  | .txa => .imp
  | .tya => .imp
  | .tsx => .imp
  | .txs => .imp
  | .pha => .imp
  | .php => .imp
  | .pla => .imp
  | .plp => .imp
  | .clc => .imp
  | .sec => .imp
  | .cli => .imp
  | .sei => .imp
  | .clv => .imp
  | .cld => .imp
  | .sed => .imp
  | .bcc _ => .rel
  | .bcs _ => .rel
  | .beq _ => .rel
  | .bne _ => .rel
  | .bmi _ => .rel
  | .bpl _ => .rel
  | .bvc _ => .rel
  | .bvs _ => .rel
  | .jmp o => o.mode
  | .jsr _ => .abs
  | .rts => .imp
  | .brk => .imp
  | .rti => .imp
  | .nop => .imp
  | .unknown _ => .imp

end Sys2Proof
end

