-- ==== Sys2Proof/WellFormed.lean ====
section
/-! DEFINITION. Which terms of Instr are instructions: an operation at one of the modes its own rule lists under
"Encoding" (spec/41 to spec/46), and UNKNOWN at one of the 105 unassigned bytes (R70). -/

namespace Sys2Proof

/-- The modes of an operation, as the "Encoding" line of its own rule lists them (R100 to R202). The two tags with no
operand rule of their own have none here: UNKNOWN is checked by its byte, INVALID has no encoding (R204). -/
def Op.modes : Op → List Mode
  | .adc => [.imm, .zp, .zpx, .abs, .abx, .aby, .izx, .izy]
  | .and => [.imm, .zp, .zpx, .abs, .abx, .aby, .izx, .izy]
  | .asl => [.imp, .zp, .zpx, .abs, .abx]
  | .bcc => [.rel]
  | .bcs => [.rel]
  | .beq => [.rel]
  | .bit => [.zp, .abs]
  | .bmi => [.rel]
  | .bne => [.rel]
  | .bpl => [.rel]
  | .brk => [.imp]
  | .bvc => [.rel]
  | .bvs => [.rel]
  | .clc => [.imp]
  | .cld => [.imp]
  | .cli => [.imp]
  | .clv => [.imp]
  | .cmp => [.imm, .zp, .zpx, .abs, .abx, .aby, .izx, .izy]
  | .cpx => [.imm, .zp, .abs]
  | .cpy => [.imm, .zp, .abs]
  | .dec => [.zp, .zpx, .abs, .abx]
  | .dex => [.imp]
  | .dey => [.imp]
  | .eor => [.imm, .zp, .zpx, .abs, .abx, .aby, .izx, .izy]
  | .inc => [.zp, .zpx, .abs, .abx]
  | .inx => [.imp]
  | .iny => [.imp]
  | .jmp => [.abs, .ind]
  | .jsr => [.abs]
  | .lda => [.imm, .zp, .zpx, .abs, .abx, .aby, .izx, .izy]
  | .ldx => [.imm, .zp, .zpy, .abs, .aby]
  | .ldy => [.imm, .zp, .zpx, .abs, .abx]
  | .lsr => [.imp, .zp, .zpx, .abs, .abx]
  | .nop => [.imp]
  | .ora => [.imm, .zp, .zpx, .abs, .abx, .aby, .izx, .izy]
  | .pha => [.imp]
  | .php => [.imp]
  | .pla => [.imp]
  | .plp => [.imp]
  | .rol => [.imp, .zp, .zpx, .abs, .abx]
  | .ror => [.imp, .zp, .zpx, .abs, .abx]
  | .rti => [.imp]
  | .rts => [.imp]
  | .sbc => [.imm, .zp, .zpx, .abs, .abx, .aby, .izx, .izy]
  | .sec => [.imp]
  | .sed => [.imp]
  | .sei => [.imp]
  | .sta => [.zp, .zpx, .abs, .abx, .aby, .izx, .izy]
  | .stx => [.zp, .zpy, .abs]
  | .sty => [.zp, .zpx, .abs]
  | .tax => [.imp]
  | .tay => [.imp]
  | .tsx => [.imp]
  | .txa => [.imp]
  | .txs => [.imp]
  | .tya => [.imp]
  | .unknown => []
  | .invalid => []

/-- The 105 unassigned opcode bytes (R70). -/
def unassignedBytes : List Byte :=
  [0x02, 0x03, 0x04, 0x07, 0x0B, 0x0C, 0x0F, 0x12, 0x13, 0x14, 0x17, 0x1A, 0x1B, 0x1C, 0x1F] ++
  [0x22, 0x23, 0x27, 0x2B, 0x2F, 0x32, 0x33, 0x34, 0x37, 0x3A, 0x3B, 0x3C, 0x3F, 0x42, 0x43] ++
  [0x44, 0x47, 0x4B, 0x4F, 0x52, 0x53, 0x54, 0x57, 0x5A, 0x5B, 0x5C, 0x5F, 0x62, 0x63, 0x64] ++
  [0x67, 0x6B, 0x6F, 0x72, 0x73, 0x74, 0x77, 0x7A, 0x7B, 0x7C, 0x7F, 0x80, 0x82, 0x83, 0x87] ++
  [0x89, 0x8B, 0x8F, 0x92, 0x93, 0x97, 0x9B, 0x9C, 0x9E, 0x9F, 0xA3, 0xA7, 0xAB, 0xAF, 0xB2] ++
  [0xB3, 0xB7, 0xBB, 0xBF, 0xC2, 0xC3, 0xC7, 0xCB, 0xCF, 0xD2, 0xD3, 0xD4, 0xD7, 0xDA, 0xDB] ++
  [0xDC, 0xDF, 0xE2, 0xE3, 0xE7, 0xEB, 0xEF, 0xF2, 0xF3, 0xF4, 0xF7, 0xFA, 0xFB, 0xFC, 0xFF]

/-- An instruction is well formed when its operation has its mode, or, for UNKNOWN, when its byte is unassigned. -/
def Instr.wf : Instr → Bool
  | .unknown b => unassignedBytes.contains b
  | i => i.op.modes.contains i.mode

end Sys2Proof
end

