-- ==== Sys2Proof/Decode.lean ====
section
/-! DEFINITION. The decoder and the encoder (spec/30_encoding.md). The decoder is the 256-entry opcode map of R69, row
by row; the encoder is the second form of the same map in R69, by mnemonic. The two tables are written separately, so
that their agreement says something. -/

namespace Sys2Proof

/-! ### The opcode map -/

/-- A cell of R69 marked `-`: the designated unknown descriptor, implied addressing (R66). -/
def unassignedCell : Op × Mode := (.unknown, .imp)

/-- R69, row 0x. -/
def opcodeRow0 : List (Op × Mode) :=
  [(.brk, .imp), (.ora, .izx), unassignedCell, unassignedCell, unassignedCell, (.ora, .zp),
   (.asl, .zp), unassignedCell, (.php, .imp), (.ora, .imm), (.asl, .imp),
   unassignedCell, unassignedCell, (.ora, .abs), (.asl, .abs), unassignedCell]

/-- R69, row 1x. -/
def opcodeRow1 : List (Op × Mode) :=
  [(.bpl, .rel), (.ora, .izy), unassignedCell, unassignedCell, unassignedCell, (.ora, .zpx),
   (.asl, .zpx), unassignedCell, (.clc, .imp), (.ora, .aby), unassignedCell,
   unassignedCell, unassignedCell, (.ora, .abx), (.asl, .abx), unassignedCell]

/-- R69, row 2x. -/
def opcodeRow2 : List (Op × Mode) :=
  [(.jsr, .abs), (.and, .izx), unassignedCell, unassignedCell, (.bit, .zp), (.and, .zp),
   (.rol, .zp), unassignedCell, (.plp, .imp), (.and, .imm), (.rol, .imp),
   unassignedCell, (.bit, .abs), (.and, .abs), (.rol, .abs), unassignedCell]

/-- R69, row 3x. -/
def opcodeRow3 : List (Op × Mode) :=
  [(.bmi, .rel), (.and, .izy), unassignedCell, unassignedCell, unassignedCell, (.and, .zpx),
   (.rol, .zpx), unassignedCell, (.sec, .imp), (.and, .aby), unassignedCell,
   unassignedCell, unassignedCell, (.and, .abx), (.rol, .abx), unassignedCell]

/-- R69, row 4x. -/
def opcodeRow4 : List (Op × Mode) :=
  [(.rti, .imp), (.eor, .izx), unassignedCell, unassignedCell, unassignedCell, (.eor, .zp),
   (.lsr, .zp), unassignedCell, (.pha, .imp), (.eor, .imm), (.lsr, .imp),
   unassignedCell, (.jmp, .abs), (.eor, .abs), (.lsr, .abs), unassignedCell]

/-- R69, row 5x. -/
def opcodeRow5 : List (Op × Mode) :=
  [(.bvc, .rel), (.eor, .izy), unassignedCell, unassignedCell, unassignedCell, (.eor, .zpx),
   (.lsr, .zpx), unassignedCell, (.cli, .imp), (.eor, .aby), unassignedCell,
   unassignedCell, unassignedCell, (.eor, .abx), (.lsr, .abx), unassignedCell]

/-- R69, row 6x. -/
def opcodeRow6 : List (Op × Mode) :=
  [(.rts, .imp), (.adc, .izx), unassignedCell, unassignedCell, unassignedCell, (.adc, .zp),
   (.ror, .zp), unassignedCell, (.pla, .imp), (.adc, .imm), (.ror, .imp),
   unassignedCell, (.jmp, .ind), (.adc, .abs), (.ror, .abs), unassignedCell]

/-- R69, row 7x. -/
def opcodeRow7 : List (Op × Mode) :=
  [(.bvs, .rel), (.adc, .izy), unassignedCell, unassignedCell, unassignedCell, (.adc, .zpx),
   (.ror, .zpx), unassignedCell, (.sei, .imp), (.adc, .aby), unassignedCell,
   unassignedCell, unassignedCell, (.adc, .abx), (.ror, .abx), unassignedCell]

/-- R69, row 8x. -/
def opcodeRow8 : List (Op × Mode) :=
  [unassignedCell, (.sta, .izx), unassignedCell, unassignedCell, (.sty, .zp), (.sta, .zp),
   (.stx, .zp), unassignedCell, (.dey, .imp), unassignedCell, (.txa, .imp),
   unassignedCell, (.sty, .abs), (.sta, .abs), (.stx, .abs), unassignedCell]

/-- R69, row 9x. -/
def opcodeRow9 : List (Op × Mode) :=
  [(.bcc, .rel), (.sta, .izy), unassignedCell, unassignedCell, (.sty, .zpx), (.sta, .zpx),
   (.stx, .zpy), unassignedCell, (.tya, .imp), (.sta, .aby), (.txs, .imp),
   unassignedCell, unassignedCell, (.sta, .abx), unassignedCell, unassignedCell]

/-- R69, row Ax. -/
def opcodeRowA : List (Op × Mode) :=
  [(.ldy, .imm), (.lda, .izx), (.ldx, .imm), unassignedCell, (.ldy, .zp), (.lda, .zp),
   (.ldx, .zp), unassignedCell, (.tay, .imp), (.lda, .imm), (.tax, .imp),
   unassignedCell, (.ldy, .abs), (.lda, .abs), (.ldx, .abs), unassignedCell]

/-- R69, row Bx. -/
def opcodeRowB : List (Op × Mode) :=
  [(.bcs, .rel), (.lda, .izy), unassignedCell, unassignedCell, (.ldy, .zpx), (.lda, .zpx),
   (.ldx, .zpy), unassignedCell, (.clv, .imp), (.lda, .aby), (.tsx, .imp),
   unassignedCell, (.ldy, .abx), (.lda, .abx), (.ldx, .aby), unassignedCell]

/-- R69, row Cx. -/
def opcodeRowC : List (Op × Mode) :=
  [(.cpy, .imm), (.cmp, .izx), unassignedCell, unassignedCell, (.cpy, .zp), (.cmp, .zp),
   (.dec, .zp), unassignedCell, (.iny, .imp), (.cmp, .imm), (.dex, .imp),
   unassignedCell, (.cpy, .abs), (.cmp, .abs), (.dec, .abs), unassignedCell]

/-- R69, row Dx. -/
def opcodeRowD : List (Op × Mode) :=
  [(.bne, .rel), (.cmp, .izy), unassignedCell, unassignedCell, unassignedCell, (.cmp, .zpx),
   (.dec, .zpx), unassignedCell, (.cld, .imp), (.cmp, .aby), unassignedCell,
   unassignedCell, unassignedCell, (.cmp, .abx), (.dec, .abx), unassignedCell]

/-- R69, row Ex. -/
def opcodeRowE : List (Op × Mode) :=
  [(.cpx, .imm), (.sbc, .izx), unassignedCell, unassignedCell, (.cpx, .zp), (.sbc, .zp),
   (.inc, .zp), unassignedCell, (.inx, .imp), (.sbc, .imm), (.nop, .imp),
   unassignedCell, (.cpx, .abs), (.sbc, .abs), (.inc, .abs), unassignedCell]

/-- R69, row Fx. -/
def opcodeRowF : List (Op × Mode) :=
  [(.beq, .rel), (.sbc, .izy), unassignedCell, unassignedCell, unassignedCell, (.sbc, .zpx),
   (.inc, .zpx), unassignedCell, (.sed, .imp), (.sbc, .aby), unassignedCell,
   unassignedCell, unassignedCell, (.sbc, .abx), (.inc, .abx), unassignedCell]

/-- The sixteen rows of R69, the high nibble first. -/
def opcodeMap : List (List (Op × Mode)) :=
  [opcodeRow0, opcodeRow1, opcodeRow2, opcodeRow3, opcodeRow4, opcodeRow5, opcodeRow6, opcodeRow7] ++
  [opcodeRow8, opcodeRow9, opcodeRowA, opcodeRowB, opcodeRowC, opcodeRowD, opcodeRowE, opcodeRowF]

/-- The operation and mode an opcode byte selects; it depends on that byte alone (R61). -/
def opcodeCell (b : Byte) : Op × Mode :=
  (opcodeMap.getD (b.toNat / 16) []).getD (b.toNat % 16) unassignedCell

/-- The instruction descriptor (R60). -/
structure Descriptor where
  mnemonic : String
  opcode : Byte
  op : Op
  mode : Mode
  cycles : Nat
deriving DecidableEq, Repr

/-- The base cycle count of an opcode: `UNKNOWN_CYCLES` for an unassigned byte (R66), else its `BASE_CYCLES` entry (R71). -/
def baseCost (c : Config) (b : Byte) : Nat :=
  if (opcodeCell b).1 = .unknown then c.unknownCycles else c.baseCycles.getD b.toNat 0

/-- `decode(byte) -> Descriptor`, total over the 256 values (R60, R61). -/
def descriptor (c : Config) (b : Byte) : Descriptor :=
  { mnemonic := (opcodeCell b).1.mnemonic, opcode := b, op := (opcodeCell b).1, mode := (opcodeCell b).2,
    cycles := baseCost c b }

/-- The cells of R69 marked `+`, which pay the page-crossing cycle under `PAGE_PENALTY_MODE = reads_only` (R94). -/
def plusCell : Op → Mode → Bool
  | .adc, m | .and, m | .cmp, m | .eor, m | .lda, m | .ora, m | .sbc, m => m == .abx || m == .aby || m == .izy
  | .ldx, m => m == .aby
  | .ldy, m => m == .abx
  | _, _ => false

/-! ### Decoding bytes -/

/-- How many operand bytes a mode consumes (R63, R80). -/
def Mode.operandBytes : Mode → Nat
  | .imp => 0
  | .imm | .zp | .zpx | .zpy | .izx | .izy | .rel => 1
  | .abs | .abx | .aby | .ind => 2

/-- The length of an instruction, decided by its mode tag alone (R63). -/
def Mode.length (m : Mode) : Nat := m.operandBytes + 1

/-- Operand assembly of the modes with an effective address (R64): `b1` the first operand byte, `b2` the second. -/
def memArg (m : Mode) (b1 b2 : Byte) : Option MemArg :=
  match m with
  | .zp => some (.zp b1)
  | .zpx => some (.zpx b1)
  | .zpy => some (.zpy b1)
  | .abs => some (.abs (word b2 b1))
  | .abx => some (.abx (word b2 b1))
  | .aby => some (.aby (word b2 b1))
  | .ind => some (.ind (word b2 b1))
  | .izx => some (.izx b1)
  | .izy => some (.izy b1)
  | .imm | .rel | .imp => none

/-- Operand assembly of a read operand (R64, R81). -/
def readArg (m : Mode) (b1 b2 : Byte) : Option ReadArg :=
  if m = .imm then some (.imm b1) else (memArg m b1 b2).map .mem

/-- Operand assembly of a shift operand: IMP is the accumulator form (R92). -/
def shiftArg (m : Mode) (b1 b2 : Byte) : Option ShiftArg :=
  if m = .imp then some .acc else (memArg m b1 b2).map .mem

/-- The instruction of an opcode byte and its operand bytes. `none` only for the tag INVALID or for an operation at a mode
it does not have; no cell of R69 is either. -/
def assemble (opcode b1 b2 : Byte) : Option Instr :=
  let m := (opcodeCell opcode).2
  match (opcodeCell opcode).1 with
  | .adc => (readArg m b1 b2).map .adc
  | .and => (readArg m b1 b2).map .and
  | .asl => (shiftArg m b1 b2).map .asl
  | .bcc => some (.bcc b1)
  | .bcs => some (.bcs b1)
  | .beq => some (.beq b1)
  | .bit => (memArg m b1 b2).map .bit
  | .bmi => some (.bmi b1)
  | .bne => some (.bne b1)
  | .bpl => some (.bpl b1)
  | .brk => some .brk
  | .bvc => some (.bvc b1)
  | .bvs => some (.bvs b1)
  | .clc => some .clc
  | .cld => some .cld
  | .cli => some .cli
  | .clv => some .clv
  | .cmp => (readArg m b1 b2).map .cmp
  | .cpx => (readArg m b1 b2).map .cpx
  | .cpy => (readArg m b1 b2).map .cpy
  | .dec => (memArg m b1 b2).map .dec
  | .dex => some .dex
  | .dey => some .dey
  | .eor => (readArg m b1 b2).map .eor
  | .inc => (memArg m b1 b2).map .inc
  | .inx => some .inx
  | .iny => some .iny
  | .jmp => (memArg m b1 b2).map .jmp
  | .jsr => some (.jsr (word b2 b1))
  | .lda => (readArg m b1 b2).map .lda
  | .ldx => (readArg m b1 b2).map .ldx
  | .ldy => (readArg m b1 b2).map .ldy
  | .lsr => (shiftArg m b1 b2).map .lsr
  | .nop => some .nop
  | .ora => (readArg m b1 b2).map .ora
  | .pha => some .pha
  | .php => some .php
  | .pla => some .pla
  | .plp => some .plp
  | .rol => (shiftArg m b1 b2).map .rol
  | .ror => (shiftArg m b1 b2).map .ror
  | .rti => some .rti
  | .rts => some .rts
  | .sbc => (readArg m b1 b2).map .sbc
  | .sec => some .sec
  | .sed => some .sed
  | .sei => some .sei
  | .sta => (memArg m b1 b2).map .sta
  | .stx => (memArg m b1 b2).map .stx
  | .sty => (memArg m b1 b2).map .sty
  | .tax => some .tax
  | .tay => some .tay
  | .tsx => some .tsx
  | .txa => some .txa
  | .txs => some .txs
  | .tya => some .tya
  | .unknown => some (.unknown opcode)
  | .invalid => none

/-- Why bytes do not decode. -/
inductive DecodeError where
  /-- there is no opcode byte -/
  | noOpcodeByte
  /-- fewer operand bytes than the opcode's mode consumes -/
  | missingOperandByte
  /-- the opcode's cell has no executor: the tag INVALID (R67, R204); no byte selects it -/
  | invalidOperation
deriving DecidableEq, Repr

/-- The result of an assembled instruction with the bytes that follow it. -/
def decoded (i : Option Instr) (rest : List Byte) : Except DecodeError (Instr × List Byte) :=
  match i with
  | some i => .ok (i, rest)
  | none => .error .invalidOperation

/-- The decoder on a list of bytes, lowest address first: the instruction at its head and the bytes after it. -/
def decode : List Byte → Except DecodeError (Instr × List Byte)
  | [] => .error .noOpcodeByte
  | op :: rest =>
    match (opcodeCell op).2.operandBytes, rest with
    | 0, _ => decoded (assemble op 0 0) rest
    | 1, b1 :: rest => decoded (assemble op b1 0) rest
    | 2, b1 :: b2 :: rest => decoded (assemble op b1 b2) rest
    | _, _ => .error .missingOperandByte

/-! ### Encoding -/

/-- The opcodes of an operation by mode, from the second form of the map in R69 (by mnemonic). -/
def opcodeRows : Op → List (Mode × Byte)
  | .adc => [(.izx, 0x61), (.zp, 0x65), (.imm, 0x69), (.abs, 0x6D), (.izy, 0x71), (.zpx, 0x75), (.aby, 0x79), (.abx, 0x7D)]
  | .and => [(.izx, 0x21), (.zp, 0x25), (.imm, 0x29), (.abs, 0x2D), (.izy, 0x31), (.zpx, 0x35), (.aby, 0x39), (.abx, 0x3D)]
  | .asl => [(.zp, 0x06), (.imp, 0x0A), (.abs, 0x0E), (.zpx, 0x16), (.abx, 0x1E)]
  | .bcc => [(.rel, 0x90)]
  | .bcs => [(.rel, 0xB0)]
  | .beq => [(.rel, 0xF0)]
  | .bit => [(.zp, 0x24), (.abs, 0x2C)]
  | .bmi => [(.rel, 0x30)]
  | .bne => [(.rel, 0xD0)]
  | .bpl => [(.rel, 0x10)]
  | .brk => [(.imp, 0x00)]
  | .bvc => [(.rel, 0x50)]
  | .bvs => [(.rel, 0x70)]
  | .clc => [(.imp, 0x18)]
  | .cld => [(.imp, 0xD8)]
  | .cli => [(.imp, 0x58)]
  | .clv => [(.imp, 0xB8)]
  | .cmp => [(.izx, 0xC1), (.zp, 0xC5), (.imm, 0xC9), (.abs, 0xCD), (.izy, 0xD1), (.zpx, 0xD5), (.aby, 0xD9), (.abx, 0xDD)]
  | .cpx => [(.imm, 0xE0), (.zp, 0xE4), (.abs, 0xEC)]
  | .cpy => [(.imm, 0xC0), (.zp, 0xC4), (.abs, 0xCC)]
  | .dec => [(.zp, 0xC6), (.abs, 0xCE), (.zpx, 0xD6), (.abx, 0xDE)]
  | .dex => [(.imp, 0xCA)]
  | .dey => [(.imp, 0x88)]
  | .eor => [(.izx, 0x41), (.zp, 0x45), (.imm, 0x49), (.abs, 0x4D), (.izy, 0x51), (.zpx, 0x55), (.aby, 0x59), (.abx, 0x5D)]
  | .inc => [(.zp, 0xE6), (.abs, 0xEE), (.zpx, 0xF6), (.abx, 0xFE)]
  | .inx => [(.imp, 0xE8)]
  | .iny => [(.imp, 0xC8)]
  | .jmp => [(.abs, 0x4C), (.ind, 0x6C)]
  | .jsr => [(.abs, 0x20)]
  | .lda => [(.izx, 0xA1), (.zp, 0xA5), (.imm, 0xA9), (.abs, 0xAD), (.izy, 0xB1), (.zpx, 0xB5), (.aby, 0xB9), (.abx, 0xBD)]
  | .ldx => [(.imm, 0xA2), (.zp, 0xA6), (.abs, 0xAE), (.zpy, 0xB6), (.aby, 0xBE)]
  | .ldy => [(.imm, 0xA0), (.zp, 0xA4), (.abs, 0xAC), (.zpx, 0xB4), (.abx, 0xBC)]
  | .lsr => [(.zp, 0x46), (.imp, 0x4A), (.abs, 0x4E), (.zpx, 0x56), (.abx, 0x5E)]
  | .nop => [(.imp, 0xEA)]
  | .ora => [(.izx, 0x01), (.zp, 0x05), (.imm, 0x09), (.abs, 0x0D), (.izy, 0x11), (.zpx, 0x15), (.aby, 0x19), (.abx, 0x1D)]
  | .pha => [(.imp, 0x48)]
  | .php => [(.imp, 0x08)]
  | .pla => [(.imp, 0x68)]
  | .plp => [(.imp, 0x28)]
  | .rol => [(.zp, 0x26), (.imp, 0x2A), (.abs, 0x2E), (.zpx, 0x36), (.abx, 0x3E)]
  | .ror => [(.zp, 0x66), (.imp, 0x6A), (.abs, 0x6E), (.zpx, 0x76), (.abx, 0x7E)]
  | .rti => [(.imp, 0x40)]
  | .rts => [(.imp, 0x60)]
  | .sbc => [(.izx, 0xE1), (.zp, 0xE5), (.imm, 0xE9), (.abs, 0xED), (.izy, 0xF1), (.zpx, 0xF5), (.aby, 0xF9), (.abx, 0xFD)]
  | .sec => [(.imp, 0x38)]
  | .sed => [(.imp, 0xF8)]
  | .sei => [(.imp, 0x78)]
  | .sta => [(.izx, 0x81), (.zp, 0x85), (.abs, 0x8D), (.izy, 0x91), (.zpx, 0x95), (.aby, 0x99), (.abx, 0x9D)]
  | .stx => [(.zp, 0x86), (.abs, 0x8E), (.zpy, 0x96)]
  | .sty => [(.zp, 0x84), (.abs, 0x8C), (.zpx, 0x94)]
  | .tax => [(.imp, 0xAA)]
  | .tay => [(.imp, 0xA8)]
  | .tsx => [(.imp, 0xBA)]
  | .txa => [(.imp, 0x8A)]
  | .txs => [(.imp, 0x9A)]
  | .tya => [(.imp, 0x98)]
  | .unknown => []
  | .invalid => []

/-- The opcode byte of an operation at a mode, if the table has that row. -/
def opcodeOf (o : Op) (m : Mode) : Option Byte := (opcodeRows o).lookup m

/-- The operand bytes of a memory operand, in memory order: low byte first (R63, R64). -/
def MemArg.bytes : MemArg → List Byte
  | .zp b | .zpx b | .zpy b | .izx b | .izy b => [b]
  | .abs w | .abx w | .aby w | .ind w => [lo w, hi w]

/-- The operand bytes of a read operand. -/
def ReadArg.bytes : ReadArg → List Byte
  | .imm b => [b]
  | .mem m => m.bytes

/-- The operand bytes of a shift operand. -/
def ShiftArg.bytes : ShiftArg → List Byte
  | .acc => []
  | .mem m => m.bytes

/-- The operand bytes of an instruction (R63). -/
def Instr.operandBytes : Instr → List Byte
  | .adc o | .sbc o | .and o | .ora o | .eor o | .cmp o | .cpx o | .cpy o | .lda o | .ldx o | .ldy o => o.bytes
  | .bit o | .inc o | .dec o | .sta o | .stx o | .sty o | .jmp o => o.bytes
  | .asl o | .lsr o | .rol o | .ror o => o.bytes
  | .bcc off | .bcs off | .beq off | .bne off | .bmi off | .bpl off | .bvc off | .bvs off => [off]
  | .jsr target => [lo target, hi target]
  | .inx | .iny | .dex | .dey | .tax | .tay | .txa | .tya | .tsx | .txs | .pha | .php | .pla
  | .plp | .clc | .sec | .cli | .sei | .clv | .cld | .sed | .rts | .brk | .rti | .nop => []
  | .unknown _ => []

/-- The opcode byte of an instruction: an unassigned byte stands for itself (R66). -/
def Instr.opcode : Instr → Option Byte
  | .unknown b => some b
  | i => opcodeOf i.op i.mode

/-- The bytes of a well-formed instruction, lowest address first (R63); a term with no row in the table has none. -/
def encode (i : Instr) : List Byte :=
  match i.opcode with
  | some b => b :: i.operandBytes
  | none => []

/-! ### The opcode table's numbering of bits -/

/-- Byte `k` of an instruction whose bits are `w`, the bits from `nbits` on being 0. -/
def tableByte (nbits w k : Nat) : Byte := BitVec.ofNat 8 (w % 2 ^ nbits / 2 ^ (8 * k))

/-- The bytes of the longest instruction (3, R63) as opcode_table.json numbers its bits, lowest address first. -/
def tableBytes (nbits w : Nat) : List Byte := [tableByte nbits w 0, tableByte nbits w 1, tableByte nbits w 2]

/-- The instruction the decoder reads from an instruction whose bits are `w`. -/
def decodeTableWord (nbits w : Nat) : Option Instr :=
  match decode (tableBytes nbits w) with
  | .ok (i, _) => some i
  | .error _ => none

end Sys2Proof
end

