-- ==== Sys2Proof/Machine/Defaults.lean ====
section
/-! DEFINITION. The default values of the parameters of spec/00_scope.md R6. The spec calls every default its own
choice, never a claim about the source (R6; notes/assumptions/1.md). -/

namespace Sys2Proof.Machine

/-- The base cycle column of R69, one list per row of the map (high nibble 0 to 7). An unassigned byte stands as 0 and
is never looked up: its cost is `UNKNOWN_CYCLES` (R66, R71). -/
def defaultBaseCyclesLow : List Nat :=
  [7, 6, 0, 0, 0, 3, 5, 0, 3, 2, 2, 0, 0, 4, 6, 0] ++
  [2, 5, 0, 0, 0, 4, 6, 0, 2, 4, 0, 0, 0, 4, 7, 0] ++
  [6, 6, 0, 0, 3, 3, 5, 0, 4, 2, 2, 0, 4, 4, 6, 0] ++
  [2, 5, 0, 0, 0, 4, 6, 0, 2, 4, 0, 0, 0, 4, 7, 0] ++
  [6, 6, 0, 0, 0, 3, 5, 0, 3, 2, 2, 0, 3, 4, 6, 0] ++
  [2, 5, 0, 0, 0, 4, 6, 0, 2, 4, 0, 0, 0, 4, 7, 0] ++
  [6, 6, 0, 0, 0, 3, 5, 0, 4, 2, 2, 0, 5, 4, 6, 0] ++
  [2, 5, 0, 0, 0, 4, 6, 0, 2, 4, 0, 0, 0, 4, 7, 0]

/-- The base cycle column of R69 for the high nibbles 8 to F. -/
def defaultBaseCyclesHigh : List Nat :=
  [0, 6, 0, 0, 3, 3, 3, 0, 2, 0, 2, 0, 4, 4, 4, 0] ++
  [2, 6, 0, 0, 4, 4, 4, 0, 2, 5, 2, 0, 0, 5, 0, 0] ++
  [2, 6, 2, 0, 3, 3, 3, 0, 2, 2, 2, 0, 4, 4, 4, 0] ++
  [2, 5, 0, 0, 4, 4, 4, 0, 2, 4, 2, 0, 4, 4, 4, 0] ++
  [2, 6, 0, 0, 3, 3, 5, 0, 2, 2, 2, 0, 4, 4, 6, 0] ++
  [2, 5, 0, 0, 0, 4, 6, 0, 2, 4, 0, 0, 0, 4, 7, 0] ++
  [2, 6, 0, 0, 3, 3, 5, 0, 2, 2, 2, 0, 4, 4, 6, 0] ++
  [2, 5, 0, 0, 0, 4, 6, 0, 2, 4, 0, 0, 0, 4, 7, 0]

/-- `BASE_CYCLES[256]` as R69 gives it (D28). -/
def defaultBaseCycles : List Nat := defaultBaseCyclesLow ++ defaultBaseCyclesHigh

/-- The default column of R6. -/
def defaultConfig : Config where
  spReset := 0xFF
  pReset := 0x24
  resetCycles := 7
  irqCycles := 7
  nmiCycles := 7
  brkPad := 0
  irqMaskedHold := false
  pagePenalty := .all
  baseCycles := defaultBaseCycles
  unknownCycles := 0

end Sys2Proof.Machine
end

