-- ==== Sys2Proof/Machine/Memory.lean ====
section
/-! DEFINITION. The memory collaborator (spec/20_memory.md R40, R41): 65536 bytes, flat, total, held as a sparse list of
(address, byte) pairs in one canonical form. -/

namespace Sys2Proof.Machine

/-- The contents of memory: the bytes that differ from `unlistedByte`, by rising address. -/
abbrev Memory := List Host.Cell

/-- What an address with no entry reads as. The spec gives memory no contents of its own (R30, D33): DESIGN CHOICE,
unsafe, notes/assumptions/3.md. -/
def unlistedByte : Byte := 0x00

/-- The canonical form: addresses inside the 16-bit space and strictly rising, no entry equal to `unlistedByte`. -/
abbrev Memory.wf (m : Memory) : Prop :=
  m.Pairwise (fun c d => c.1 < d.1) ∧ ∀ c ∈ m, c.1 < 65536 ∧ c.2 ≠ unlistedByte

/-- `read(address)` (R40). -/
def Memory.read : Memory → Nat → Byte
  | [], _ => unlistedByte
  | c :: rest, a => if c.1 = a then c.2 else Memory.read rest a

/-- The list without the entries of one address. -/
def Memory.erase (m : Memory) (a : Nat) : Memory := m.filter (fun c => c.1 != a)

/-- A new entry put before the first entry of a higher address. -/
def Memory.insert : Memory → Nat → Byte → Memory
  | [], a, v => [(a, v)]
  | c :: rest, a, v => if a < c.1 then (a, v) :: c :: rest else c :: Memory.insert rest a v

/-- `write(address, byte)` (R40, R45): replaces the byte and nothing else, and keeps the canonical form. -/
def Memory.write (m : Memory) (a : Nat) (v : Byte) : Memory :=
  if v = unlistedByte then Memory.erase m a else Memory.insert (Memory.erase m a) a v

/-- `read16(a)`: the low byte at `a`, the high byte at `a + 1` (R42, R46). -/
def Memory.read16 (m : Memory) (a : Word) : Word :=
  word (Memory.read m (a + 1).toNat) (Memory.read m a.toNat)

/-- The reset vector's address (R49). -/
def resetVector : Word := 0xFFFC

/-- The vector shared by IRQ and BRK (R49, R210). -/
def irqVector : Word := 0xFFFE

/-- The NMI vector (R49, R210). -/
def nmiVector : Word := 0xFFFA

end Sys2Proof.Machine
end

