-- ==== Sys2Proof/Machine/State.lean ====
section
/-! DEFINITION. The state of one CORE instance with its memory (spec/10_state.md R10), the reasons a step can stop, and
the state after reset. -/

namespace Sys2Proof.Machine

/-- All the state of R10, the memory collaborator's contents (R40), and the parameters of R6 as data nothing changes
(`cfg`, the model's own field: notes/assumptions/1.md). The working state of R26 is local to the meanings. -/
structure State where
  /-- accumulator (R11) -/
  a : Byte
  /-- index register X (R12) -/
  x : Byte
  /-- index register Y (R13) -/
  y : Byte
  /-- stack pointer, an offset into page 0x01 (R14) -/
  sp : Byte
  /-- program counter (R15) -/
  pc : Word
  /-- status flags, one byte (R16) -/
  p : Byte
  /-- `CYC`: ticks left before the next boundary (R23) -/
  cyc : Nat
  /-- `irq_req` (R24) -/
  irqReq : Bool
  /-- `nmi_req` (R25) -/
  nmiReq : Bool
  /-- the memory collaborator's contents (R40) -/
  mem : Memory
  /-- the parameters of R6 -/
  cfg : Config
deriving DecidableEq, Repr

/-- The reasons the machine stops. -/
inductive Fault where
  /-- The invariant violation of R204: an operation and mode the opcode table has no row for. Raised by a meaning given a
  term of Instr that is not well formed, and by the tick if a byte decoded to the tag INVALID, which none does. Safe: it
  stops where the spec stops (R204), and no step reaches it. -/
  | invalidOperation
deriving DecidableEq, Repr

/-- The reasons an instruction has no meaning. -/
inductive Refusal where
  /-- The instruction's arm of `exec` gives no meaning yet. Raised by no arm of this model. Safe. -/
  | notModelled (mnemonic : String)
deriving DecidableEq, Repr

/-- The machine right after reset (R30, R241) with nothing listed in memory and the default parameters. A, X and Y are
unspecified there (R31): the zeros are DESIGN CHOICE, unsafe, notes/assumptions/2.md. -/
def State.reset : State where
  a := 0x00
  x := 0x00
  y := 0x00
  sp := defaultConfig.spReset
  pc := Memory.read16 [] resetVector
  p := defaultConfig.pReset ||| 0x20
  cyc := defaultConfig.resetCycles
  irqReq := false
  nmiReq := false
  mem := []
  cfg := defaultConfig

end Sys2Proof.Machine
end

