-- ==== Sys2Proof/Machine/Flags.lean ====
section
/-! DEFINITION. The status flags (spec/10_state.md R16 to R22) and every computation of a result with its flags
(spec/41, spec/42). -/

namespace Sys2Proof.Machine

/-! ### Field updates -/

/-- The state with `a` replaced. -/
def State.setA (s : State) (v : Byte) : State := { s with a := v }

/-- The state with `x` replaced. -/
def State.setX (s : State) (v : Byte) : State := { s with x := v }

/-- The state with `y` replaced. -/
def State.setY (s : State) (v : Byte) : State := { s with y := v }

/-- The state with `sp` replaced. -/
def State.setSp (s : State) (v : Byte) : State := { s with sp := v }

/-- The state with `pc` replaced. -/
def State.setPc (s : State) (v : Word) : State := { s with pc := v }

/-- The state with `p` replaced. -/
def State.setP (s : State) (v : Byte) : State := { s with p := v }

/-- The state with `cyc` replaced. -/
def State.setCyc (s : State) (v : Nat) : State := { s with cyc := v }

/-- The state with `irqReq` replaced. -/
def State.setIrqReq (s : State) (v : Bool) : State := { s with irqReq := v }

/-- The state with `nmiReq` replaced. -/
def State.setNmiReq (s : State) (v : Bool) : State := { s with nmiReq := v }

/-- The state with `mem` replaced. -/
def State.setMem (s : State) (v : Memory) : State := { s with mem := v }

/-! ### The status byte -/

/-- The eight flags (R16). -/
inductive Flag where
  | c | z | i | d | b | u | v | n
deriving DecidableEq, Repr

/-- The bit of `P` a flag stands at: the order of the list of R16, least significant first. -/
def Flag.bit : Flag → Nat
  | .c => 0
  | .z => 1
  | .i => 2
  | .d => 3
  | .b => 4
  | .u => 5
  | .v => 6
  | .n => 7

/-- The mask of a flag (R16). -/
def Flag.mask (f : Flag) : Byte := 1#8 <<< f.bit

/-- One flag of a status byte. -/
def flagOf (p : Byte) (f : Flag) : Bool := p.getLsbD f.bit

/-- A status byte with one flag replaced and the other seven as they were. -/
def withFlag (p : Byte) (f : Flag) (b : Bool) : Byte :=
  if b then p ||| f.mask else p &&& ~~~f.mask

/-- A read of one flag. -/
def State.flag (s : State) (f : Flag) : Bool := flagOf s.p f

/-- A write of one flag. -/
def State.setFlag (s : State) (f : Flag) (b : Bool) : State := s.setP (withFlag s.p f b)

/-- A read of the whole status byte: bit 5 always reads 1 (R17). -/
def State.readP (s : State) : Byte := s.p ||| 0x20

/-- `WriteP(b)`: the whole byte replaced, bit 5 stored as 1 (R21). -/
def State.writeP (s : State) (b : Byte) : State := s.setP (b ||| 0x20)

/-- `setNZ(v)`: Z is whether the value is 0, N its bit 7, nothing else (R20). -/
def State.setNZ (s : State) (v : Byte) : State := (s.setFlag .z (v == 0)).setFlag .n (v.getLsbD 7)

/-! ### Results with flags -/

/-- An 8-bit result with the carry and overflow an operation computes beside it. -/
structure AluResult where
  val : Byte
  carry : Bool
  overflow : Bool
deriving DecidableEq, Repr

/-- Add with carry-in (R100): the 9-bit sum, carry when it exceeds 0xFF, overflow when the operands' signs are equal and
the result's differs. -/
def addWithCarry (a m : Byte) (c : Bool) : AluResult :=
  let t := a.toNat + m.toNat + c.toNat
  let r := BitVec.ofNat 8 t
  { val := r
    carry := decide (t > 0xFF)
    overflow := a.getLsbD 7 == m.getLsbD 7 && r.getLsbD 7 != a.getLsbD 7 }

/-- Subtract with borrow (R101): the addition of the operand's one's complement, so carry means no borrow. -/
def subWithBorrow (a m : Byte) (c : Bool) : AluResult := addWithCarry a (m ^^^ 0xFF) c

/-- Compare (R107): the difference modulo 256, carry when the register is at least the operand, unsigned. The carry-in and
the overflow flag take no part. -/
def compareWith (r m : Byte) : AluResult :=
  { val := r - m, carry := decide (m.toNat ≤ r.toNat), overflow := false }

/-- A shifted or rotated value with the bit shifted out. -/
structure ShiftResult where
  val : Byte
  carry : Bool
deriving DecidableEq, Repr

/-- ASL (R120): bit 0 becomes 0, bit 7 goes out. -/
def shiftLeft (m : Byte) : ShiftResult := { val := m <<< 1, carry := m.getLsbD 7 }

/-- LSR (R121): bit 7 becomes 0, bit 0 goes out. -/
def shiftRight (m : Byte) : ShiftResult := { val := m >>> 1, carry := m.getLsbD 0 }

/-- ROL (R122): the old carry into bit 0, bit 7 out. -/
def rotateLeft (m : Byte) (c : Bool) : ShiftResult :=
  { val := (m <<< 1) ||| (BitVec.ofBool c).setWidth 8, carry := m.getLsbD 7 }

/-- ROR (R123): the old carry into bit 7, bit 0 out. -/
def rotateRight (m : Byte) (c : Bool) : ShiftResult :=
  { val := (m >>> 1) ||| ((BitVec.ofBool c).setWidth 8 <<< 7), carry := m.getLsbD 0 }

/-! ### Flag updates shared by families -/

/-- ADC and SBC: the result into A, and C, Z, N, V from it (R100, R101). -/
def State.accumulate (s : State) (r : AluResult) : State :=
  (((s.setFlag .c r.carry).setNZ r.val).setFlag .v r.overflow).setA r.val

/-- AND, ORA, EOR, LDA, TXA, TYA, PLA: a value into A, and Z, N from it (R103 to R105, R140, R148, R149, R162). -/
def State.loadA (s : State) (v : Byte) : State := (s.setA v).setNZ v

/-- LDX, TAX, TSX, INX, DEX: a value into X, and Z, N from it (R127, R129, R141, R146, R150). -/
def State.loadX (s : State) (v : Byte) : State := (s.setX v).setNZ v

/-- LDY, TAY, INY, DEY: a value into Y, and Z, N from it (R128, R130, R142, R147). -/
def State.loadY (s : State) (v : Byte) : State := (s.setY v).setNZ v

/-- CMP, CPX, CPY: C, Z, N from the comparison, no register (R107 to R109). -/
def State.setCompare (s : State) (r : AluResult) : State := (s.setFlag .c r.carry).setNZ r.val

/-- ASL, LSR, ROL, ROR: C the bit shifted out, Z, N from the result (R120 to R123). -/
def State.setShift (s : State) (r : ShiftResult) : State := (s.setFlag .c r.carry).setNZ r.val

end Sys2Proof.Machine
end

