-- ==== Sys2Proof/Machine/Ops.lean ====
section
/-! DEFINITION. The named operations over memory, stack and program counter (spec/20_memory.md), the cost of an
instruction (R94, R247), the entry of NMI, IRQ and BRK and the return from it (R215, R221), and the reset sequence
(R241). -/

namespace Sys2Proof.Machine

/-! ### Memory -/

/-- `MemRead(addr, 1)` (R7, R40). -/
def State.readByte (s : State) (a : Word) : Byte := Memory.read s.mem a.toNat

/-- `MemWrite(addr, 1, v)` (R7, R40). -/
def State.writeByte (s : State) (a : Word) (v : Byte) : State := s.setMem (Memory.write s.mem a.toNat v)

/-- `read16(a)` (R46). -/
def State.read16 (s : State) (a : Word) : Word := Memory.read16 s.mem a

/-- `read16_zp(p)`: a pointer in the zero page, whose high byte wraps inside it (R47). -/
def State.read16Zp (s : State) (p : Byte) : Word :=
  word (s.readByte (zext16 (p + 1))) (s.readByte (zext16 p))

/-- `read16_pagewrap(a)`: the pointer of JMP indirect, whose high byte comes from the same page (R48). -/
def State.read16PageWrap (s : State) (a : Word) : Word :=
  word (s.readByte ((a &&& 0xFF00) ||| ((a + 1) &&& 0x00FF))) (s.readByte a)

/-! ### Stack -/

/-- The address `SP` names: `0x0100 + zext_16(SP)` (R14). -/
def stackAddr (sp : Byte) : Word := 0x0100 + zext16 sp

/-- `push8(v)`: write, then decrement modulo 256 (R50, R52). -/
def State.push8 (s : State) (v : Byte) : State := (s.writeByte (stackAddr s.sp) v).setSp (s.sp - 1)

/-- `pull8()`: increment modulo 256, then read; the byte and the state after it (R51, R52). -/
def State.pull8 (s : State) : Byte × State := (s.readByte (stackAddr (s.sp + 1)), s.setSp (s.sp + 1))

/-- A 16-bit push: high byte first, so the word lies little-endian in memory (R42, R190, R215). -/
def State.pushWord (s : State) (w : Word) : State := (s.push8 (hi w)).push8 (lo w)

/-- A 16-bit pull: low byte first (R191, R201). -/
def State.pullWord (s : State) : Word × State :=
  let l := s.pull8
  let h := l.2.pull8
  (word h.1 l.1, h.2)

/-! ### Instruction stream -/

/-- `fetch8()`: the byte at PC, and PC advanced by 1 modulo 65536 (R62). -/
def State.fetch8 (s : State) : Byte × State := (s.readByte s.pc, s.setPc (s.pc + 1))

/-- `n` calls of `fetch8`, in ascending address order. -/
def State.fetchBytes (s : State) : Nat → List Byte × State
  | 0 => ([], s)
  | n + 1 => (s.fetch8.1 :: (s.fetch8.2.fetchBytes n).1, (s.fetch8.2.fetchBytes n).2)

/-- The bytes of the instruction at PC, as many as its opcode's mode consumes (R57, R63), and the state whose PC is the
address of the next sequential instruction (R15). -/
def State.fetchInstr (s : State) : List Byte × State :=
  let op := s.fetch8
  let rest := op.2.fetchBytes (opcodeCell op.1).2.operandBytes
  (op.1 :: rest.1, rest.2)

/-! ### Cost -/

/-- What the resolver's page-crossing signal adds to the cost (R94). -/
def crossCycles (c : Config) (o : Op) (m : Mode) (cross : Bool) : Nat :=
  match c.pagePenalty with
  | .all => cross.toNat
  | .readsOnly => if plusCell o m then cross.toNat else 0

/-- The common end of an instruction (R244, R245, R247): `CYC` is loaded with base + page crossing + the operation's own
extra cycles. An operation at a mode with no row in the opcode table is the invariant violation of R204. -/
def retire (o : Op) (m : Mode) (cross : Bool) (extra : Nat) (s : State) : Host.Outcome State Fault Refusal :=
  match opcodeOf o m with
  | some b => .next (s.setCyc (baseCost s.cfg b + crossCycles s.cfg o m cross + extra))
  | none => .fault .invalidOperation

/-! ### Entry and return -/

/-- `Enter(vector)`, the entry of NMI, IRQ and BRK (R215): PC and then the status byte with Break and Unused set are
pushed, I is set, and PC is loaded from the vector. The live B flag is not touched (R18). -/
def State.enter (s : State) (vector : Word) : State :=
  let t := ((s.pushWord s.pc).push8 (s.p ||| 0x30)).setFlag .i true
  t.setPc (t.read16 vector)

/-- The return from an entry (R221, R201): status, then PC low, then PC high. -/
def State.returnFromEntry (s : State) : State :=
  let p := s.pull8
  let w := (p.2.writeP p.1).pullWord
  w.2.setPc w.1

/-! ### Reset -/

/-- The reset sequence (R241) with the values drawn for A, X and Y (R31, R255). Memory is not written. -/
def State.resetSequence (s : State) (a x y : Byte) : State where
  a := a
  x := x
  y := y
  sp := s.cfg.spReset
  pc := s.read16 resetVector
  p := s.cfg.pReset ||| 0x20
  cyc := s.cfg.resetCycles
  irqReq := false
  nmiReq := false
  mem := s.mem
  cfg := s.cfg

end Sys2Proof.Machine
end

