-- ==== Sys2Proof/Machine/Operands.lean ====
section
/-! DEFINITION. The addressing-mode resolver (spec/40_addressing_modes.md): what each mode leaves behind. PC is already past
the operand bytes (R15, R80), and X, Y and memory are as the instruction finds them. -/

namespace Sys2Proof.Machine

/-- The page-crossing signal: the high bytes of two addresses differ (R9, R86). -/
def pagesDiffer (a b : Word) : Bool := hi a != hi b

/-- The effective address of a memory operand (R82 to R90). -/
def State.effAddr (s : State) : MemArg → Word
  | .zp b => zext16 b
  | .zpx b => zext16 (b + s.x)
  | .zpy b => zext16 (b + s.y)
  | .abs w => w
  | .abx w => w + zext16 s.x
  | .aby w => w + zext16 s.y
  | .ind w => s.read16PageWrap w
  | .izx b => s.read16Zp (b + s.x)
  | .izy b => s.read16Zp b + zext16 s.y

/-- `cross`: 1 only in ABX, ABY and IZY, when the base and the effective address differ in page (R86, R87, R90, R95). -/
def State.crosses (s : State) : MemArg → Bool
  | .abx w => pagesDiffer (w + zext16 s.x) w
  | .aby w => pagesDiffer (w + zext16 s.y) w
  | .izy b => pagesDiffer (s.read16Zp b + zext16 s.y) (s.read16Zp b)
  | .zp _ | .zpx _ | .zpy _ | .abs _ | .ind _ | .izx _ => false

/-- `operand()` of a memory operand: the byte at its effective address (R93). -/
def State.memOperand (s : State) (m : MemArg) : Byte := s.readByte (s.effAddr m)

/-- `operand()` of a read operand (R93). The immediate byte is the one the instruction carries, which the fetch read at the
operand's own location (R81; notes/assumptions/8.md). -/
def State.readOperand (s : State) : ReadArg → Byte
  | .imm b => b
  | .mem m => s.memOperand m

/-- `cross` of a read operand; an immediate never crosses (R81). -/
def State.readCrosses (s : State) : ReadArg → Bool
  | .imm _ => false
  | .mem m => s.crosses m

/-- `operand()` of a shift operand: the staged accumulator in mode IMP (R92, R93). -/
def State.shiftOperand (s : State) : ShiftArg → Byte
  | .acc => s.a
  | .mem m => s.memOperand m

/-- `cross` of a shift operand. -/
def State.shiftCrosses (s : State) : ShiftArg → Bool
  | .acc => false
  | .mem m => s.crosses m

/-- `WriteBack(r)`: into A in mode IMP, else into the byte the operand came from (R124). -/
def State.writeBack (s : State) (o : ShiftArg) (r : Byte) : State :=
  match o with
  | .acc => s.setA r
  | .mem m => s.writeByte (s.effAddr m) r

end Sys2Proof.Machine
end

