-- ==== Sys2Proof/Machine/Arith.lean ====
section
/-! DEFINITION. ADC, SBC, AND, ORA, EOR, BIT, CMP, CPX, CPY (spec/41_arith_logic.md). The D flag is read by none of them (R102). -/

namespace Sys2Proof.Machine

/-- ADC (R100). -/
def execAdc (o : ReadArg) (s : State) : Host.Outcome State Fault Refusal :=
  retire .adc o.mode (s.readCrosses o) 0 (s.accumulate (addWithCarry s.a (s.readOperand o) (s.flag .c)))

/-- SBC (R101). -/
def execSbc (o : ReadArg) (s : State) : Host.Outcome State Fault Refusal :=
  retire .sbc o.mode (s.readCrosses o) 0 (s.accumulate (subWithBorrow s.a (s.readOperand o) (s.flag .c)))

/-- AND (R103). -/
def execAnd (o : ReadArg) (s : State) : Host.Outcome State Fault Refusal :=
  retire .and o.mode (s.readCrosses o) 0 (s.loadA (s.a &&& s.readOperand o))

/-- ORA (R104). -/
def execOra (o : ReadArg) (s : State) : Host.Outcome State Fault Refusal :=
  retire .ora o.mode (s.readCrosses o) 0 (s.loadA (s.a ||| s.readOperand o))

/-- EOR (R105). -/
def execEor (o : ReadArg) (s : State) : Host.Outcome State Fault Refusal :=
  retire .eor o.mode (s.readCrosses o) 0 (s.loadA (s.a ^^^ s.readOperand o))

/-- BIT (R106): Z from the AND, N and V from bits 7 and 6 of the memory byte. -/
def execBit (o : MemArg) (s : State) : Host.Outcome State Fault Refusal :=
  let m := s.memOperand o
  retire .bit o.mode (s.crosses o) 0
    (((s.setFlag .z (s.a &&& m == 0)).setFlag .n (m.getLsbD 7)).setFlag .v (m.getLsbD 6))

/-- CMP (R107). -/
def execCmp (o : ReadArg) (s : State) : Host.Outcome State Fault Refusal :=
  retire .cmp o.mode (s.readCrosses o) 0 (s.setCompare (compareWith s.a (s.readOperand o)))

/-- CPX (R108). -/
def execCpx (o : ReadArg) (s : State) : Host.Outcome State Fault Refusal :=
  retire .cpx o.mode (s.readCrosses o) 0 (s.setCompare (compareWith s.x (s.readOperand o)))

/-- CPY (R109). -/
def execCpy (o : ReadArg) (s : State) : Host.Outcome State Fault Refusal :=
  retire .cpy o.mode (s.readCrosses o) 0 (s.setCompare (compareWith s.y (s.readOperand o)))

end Sys2Proof.Machine
end

