-- ==== Sys2Proof/Machine/Control.lean ====
section
/-! DEFINITION. Branches, JMP, JSR, RTS (spec/45_control.md). PC is the address of the next sequential instruction (R15). -/

namespace Sys2Proof.Machine

/-- `Branch(cond)` (R180): taken costs 1, and 1 more when the target lies in another page than PC. -/
def branch (o : Op) (cond : Bool) (off : Byte) (s : State) : Host.Outcome State Fault Refusal :=
  let target := s.pc + sext16 off
  if cond then retire o .rel false (1 + (pagesDiffer target s.pc).toNat) (s.setPc target)
  else retire o .rel false 0 s

/-- BCC (R181). -/
def execBcc (off : Byte) (s : State) : Host.Outcome State Fault Refusal :=
  branch .bcc (s.flag .c == false) off s

/-- BCS (R182). -/
def execBcs (off : Byte) (s : State) : Host.Outcome State Fault Refusal :=
  branch .bcs (s.flag .c == true) off s

/-- BEQ (R183). -/
def execBeq (off : Byte) (s : State) : Host.Outcome State Fault Refusal :=
  branch .beq (s.flag .z == true) off s

/-- BNE (R184). -/
def execBne (off : Byte) (s : State) : Host.Outcome State Fault Refusal :=
  branch .bne (s.flag .z == false) off s

/-- BMI (R185). -/
def execBmi (off : Byte) (s : State) : Host.Outcome State Fault Refusal :=
  branch .bmi (s.flag .n == true) off s

/-- BPL (R186). -/
def execBpl (off : Byte) (s : State) : Host.Outcome State Fault Refusal :=
  branch .bpl (s.flag .n == false) off s

/-- BVC (R187). -/
def execBvc (off : Byte) (s : State) : Host.Outcome State Fault Refusal :=
  branch .bvc (s.flag .v == false) off s

/-- BVS (R188). -/
def execBvs (off : Byte) (s : State) : Host.Outcome State Fault Refusal :=
  branch .bvs (s.flag .v == true) off s

/-- JMP (R189): the byte at the target is not read. -/
def execJmp (o : MemArg) (s : State) : Host.Outcome State Fault Refusal :=
  retire .jmp o.mode (s.crosses o) 0 (s.setPc (s.effAddr o))

/-- JSR (R190): PC - 1 is pushed, the address of the last byte of the JSR. -/
def execJsr (target : Word) (s : State) : Host.Outcome State Fault Refusal :=
  retire .jsr .abs false 0 ((s.pushWord (s.pc - 1)).setPc target)

/-- RTS (R191): the pulled word plus 1. -/
def execRts (s : State) : Host.Outcome State Fault Refusal :=
  retire .rts .imp false 0 (s.pullWord.2.setPc (s.pullWord.1 + 1))

end Sys2Proof.Machine
end

