-- ==== Sys2Proof/Machine/LoadStore.lean ====
section
/-! DEFINITION. LDA, LDX, LDY, STA, STX, STY and the register transfers (spec/43_load_store_transfer.md). -/

namespace Sys2Proof.Machine

/-- LDA (R140). -/
def execLda (o : ReadArg) (s : State) : Host.Outcome State Fault Refusal :=
  retire .lda o.mode (s.readCrosses o) 0 (s.loadA (s.readOperand o))

/-- LDX (R141). -/
def execLdx (o : ReadArg) (s : State) : Host.Outcome State Fault Refusal :=
  retire .ldx o.mode (s.readCrosses o) 0 (s.loadX (s.readOperand o))

/-- LDY (R142). -/
def execLdy (o : ReadArg) (s : State) : Host.Outcome State Fault Refusal :=
  retire .ldy o.mode (s.readCrosses o) 0 (s.loadY (s.readOperand o))

/-- STA (R143). -/
def execSta (o : MemArg) (s : State) : Host.Outcome State Fault Refusal :=
  retire .sta o.mode (s.crosses o) 0 (s.writeByte (s.effAddr o) s.a)

/-- STX (R144). -/
def execStx (o : MemArg) (s : State) : Host.Outcome State Fault Refusal :=
  retire .stx o.mode (s.crosses o) 0 (s.writeByte (s.effAddr o) s.x)

/-- STY (R145). -/
def execSty (o : MemArg) (s : State) : Host.Outcome State Fault Refusal :=
  retire .sty o.mode (s.crosses o) 0 (s.writeByte (s.effAddr o) s.y)

/-- TAX (R146). -/
def execTax (s : State) : Host.Outcome State Fault Refusal :=
  retire .tax .imp false 0 (s.loadX s.a)

/-- TAY (R147). -/
def execTay (s : State) : Host.Outcome State Fault Refusal :=
  retire .tay .imp false 0 (s.loadY s.a)

/-- TXA (R148). -/
def execTxa (s : State) : Host.Outcome State Fault Refusal :=
  retire .txa .imp false 0 (s.loadA s.x)

/-- TYA (R149). -/
def execTya (s : State) : Host.Outcome State Fault Refusal :=
  retire .tya .imp false 0 (s.loadA s.y)

/-- TSX (R150): the 8-bit register, without the page base. -/
def execTsx (s : State) : Host.Outcome State Fault Refusal :=
  retire .tsx .imp false 0 (s.loadX s.sp)

/-- TXS (R151): no flag is written. -/
def execTxs (s : State) : Host.Outcome State Fault Refusal :=
  retire .txs .imp false 0 (s.setSp s.x)

end Sys2Proof.Machine
end

