-- ==== Sys2Proof/Machine/Shift.lean ====
section
/-! DEFINITION. ASL, LSR, ROL, ROR, INC, DEC, INX, INY, DEX, DEY (spec/42_shift_incdec.md). -/

namespace Sys2Proof.Machine

/-- ASL (R120, R124). -/
def execAsl (o : ShiftArg) (s : State) : Host.Outcome State Fault Refusal :=
  let r := shiftLeft (s.shiftOperand o)
  retire .asl o.mode (s.shiftCrosses o) 0 ((s.writeBack o r.val).setShift r)

/-- LSR (R121, R124). -/
def execLsr (o : ShiftArg) (s : State) : Host.Outcome State Fault Refusal :=
  let r := shiftRight (s.shiftOperand o)
  retire .lsr o.mode (s.shiftCrosses o) 0 ((s.writeBack o r.val).setShift r)

/-- ROL (R122, R124). -/
def execRol (o : ShiftArg) (s : State) : Host.Outcome State Fault Refusal :=
  let r := rotateLeft (s.shiftOperand o) (s.flag .c)
  retire .rol o.mode (s.shiftCrosses o) 0 ((s.writeBack o r.val).setShift r)

/-- ROR (R123, R124). -/
def execRor (o : ShiftArg) (s : State) : Host.Outcome State Fault Refusal :=
  let r := rotateRight (s.shiftOperand o) (s.flag .c)
  retire .ror o.mode (s.shiftCrosses o) 0 ((s.writeBack o r.val).setShift r)

/-- INC (R125). -/
def execInc (o : MemArg) (s : State) : Host.Outcome State Fault Refusal :=
  let r := s.memOperand o + 1
  retire .inc o.mode (s.crosses o) 0 ((s.writeByte (s.effAddr o) r).setNZ r)

/-- DEC (R126). -/
def execDec (o : MemArg) (s : State) : Host.Outcome State Fault Refusal :=
  let r := s.memOperand o - 1
  retire .dec o.mode (s.crosses o) 0 ((s.writeByte (s.effAddr o) r).setNZ r)

/-- INX (R127). -/
def execInx (s : State) : Host.Outcome State Fault Refusal :=
  retire .inx .imp false 0 (s.loadX (s.x + 1))

/-- INY (R128). -/
def execIny (s : State) : Host.Outcome State Fault Refusal :=
  retire .iny .imp false 0 (s.loadY (s.y + 1))

/-- DEX (R129). -/
def execDex (s : State) : Host.Outcome State Fault Refusal :=
  retire .dex .imp false 0 (s.loadX (s.x - 1))

/-- DEY (R130). -/
def execDey (s : State) : Host.Outcome State Fault Refusal :=
  retire .dey .imp false 0 (s.loadY (s.y - 1))

end Sys2Proof.Machine
end

