-- ==== Sys2Proof/Machine/Stack.lean ====
section
/-! DEFINITION. PHA, PHP, PLA, PLP and the single-flag operations (spec/44_stack_flags.md). -/

namespace Sys2Proof.Machine

/-- PHA (R160). -/
def execPha (s : State) : Host.Outcome State Fault Refusal :=
  retire .pha .imp false 0 (s.push8 s.a)

/-- PHP (R161): the whole byte as it reads, Break as stored. -/
def execPhp (s : State) : Host.Outcome State Fault Refusal :=
  retire .php .imp false 0 (s.push8 s.readP)

/-- PLA (R162). -/
def execPla (s : State) : Host.Outcome State Fault Refusal :=
  retire .pla .imp false 0 (s.pull8.2.loadA s.pull8.1)

/-- PLP (R163). -/
def execPlp (s : State) : Host.Outcome State Fault Refusal :=
  retire .plp .imp false 0 (s.pull8.2.writeP s.pull8.1)

/-- CLC (R164). -/
def execClc (s : State) : Host.Outcome State Fault Refusal :=
  retire .clc .imp false 0 (s.setFlag .c false)

/-- SEC (R165). -/
def execSec (s : State) : Host.Outcome State Fault Refusal :=
  retire .sec .imp false 0 (s.setFlag .c true)

/-- CLI (R166). -/
def execCli (s : State) : Host.Outcome State Fault Refusal :=
  retire .cli .imp false 0 (s.setFlag .i false)

/-- SEI (R167). -/
def execSei (s : State) : Host.Outcome State Fault Refusal :=
  retire .sei .imp false 0 (s.setFlag .i true)

/-- CLV (R168). -/
def execClv (s : State) : Host.Outcome State Fault Refusal :=
  retire .clv .imp false 0 (s.setFlag .v false)

/-- CLD (R169). -/
def execCld (s : State) : Host.Outcome State Fault Refusal :=
  retire .cld .imp false 0 (s.setFlag .d false)

/-- SED (R170). -/
def execSed (s : State) : Host.Outcome State Fault Refusal :=
  retire .sed .imp false 0 (s.setFlag .d true)

end Sys2Proof.Machine
end

