-- ==== Sys2Proof/Machine/System.lean ====
section
/-! DEFINITION. BRK, RTI, NOP and UNKNOWN (spec/46_system.md). -/

namespace Sys2Proof.Machine

/-- BRK (R200, R218): takes the entry through the IRQ/BRK vector, whatever I holds; PC is first moved on by BRK_PAD. -/
def execBrk (s : State) : Host.Outcome State Fault Refusal :=
  retire .brk .imp false 0 ((s.setPc (s.pc + BitVec.ofNat 16 s.cfg.brkPad.val)).enter irqVector)

/-- RTI (R201): PC is not incremented, unlike RTS. -/
def execRti (s : State) : Host.Outcome State Fault Refusal :=
  retire .rti .imp false 0 s.returnFromEntry

/-- NOP (R202). -/
def execNop (s : State) : Host.Outcome State Fault Refusal :=
  retire .nop .imp false 0 s

/-- UNKNOWN (R203): no effect but its cost, for each of the 105 unassigned bytes (R70); an assigned byte is no UNKNOWN. -/
def execUnknown (b : Byte) (s : State) : Host.Outcome State Fault Refusal :=
  if unassignedBytes.contains b then .next (s.setCyc (baseCost s.cfg b)) else .fault .invalidOperation

end Sys2Proof.Machine
end

