-- ==== Sys2Proof/Machine/Tick.lean ====
section
/-! DEFINITION. One clock tick (spec/70_reset_and_hazards.md R243 to R248): the boundary procedure with the interrupt
latches (spec/60_exceptions.md R213, R214), fetch-execute, countdown. -/

namespace Sys2Proof.Machine

/-- `BoundaryIRQ()` (R214): the state after sampling, and the cycles to load if an entry was made. -/
def boundaryIrq (s : State) : State × Option Nat :=
  if s.irqReq then
    if s.flag .i then (if s.cfg.irqMaskedHold then s else s.setIrqReq false, none)
    else ((s.setIrqReq false).enter irqVector, some s.cfg.irqCycles)
  else (s, none)

/-- `Boundary()` (R213): NMI first, whatever I holds (R217, R219); at most one entry. -/
def boundary (s : State) : State × Option Nat :=
  if s.nmiReq then ((s.setNmiReq false).enter nmiVector, some s.cfg.nmiCycles)
  else boundaryIrq s

/-- `FetchExecute()` (R244): fetch the opcode and all operand bytes, decode, execute; `exec` loads the cost into `CYC`. Bytes
that do not decode are the invariant violation of R204; none exist. -/
def fetchExecute (s : State) : Host.Outcome State Fault Refusal :=
  match decode s.fetchInstr.1 with
  | .ok (i, _) => exec i s.fetchInstr.2
  | .error _ => .fault .invalidOperation

/-- The countdown of a tick: `CYC` goes down by 1 and never below 0 (R246). -/
def State.countdown (s : State) : State := s.setCyc (s.cyc - 1)

/-- The countdown after an instruction, if it answered a next state. -/
def countdownAfter : Host.Outcome State Fault Refusal → Host.Outcome State Fault Refusal
  | .next s => .next s.countdown
  | .fault r => .fault r
  | .refused r => .refused r

/-- `tick()` (R245). -/
def tick (s : State) : Host.Outcome State Fault Refusal :=
  if s.cyc = 0 then
    match boundary s with
    | (t, some c) => .next (t.setCyc c).countdown
    | (t, none) => countdownAfter (fetchExecute t)
  else .next s.countdown

/-- The bytes of an instruction placed at PC and the two addresses after it, modulo 65536. -/
def State.placeBytes (s : State) (a : Word) : List Byte → State
  | [] => s
  | b :: rest => (s.writeByte a b).placeBytes (a + 1) rest

end Sys2Proof.Machine
end

