-- ==== Sys2Proof/Machine/Step.lean ====
section
/-! DEFINITION. One step of the machine is one tick (R245; notes/assumptions/6.md). -/

namespace Sys2Proof.Machine

/-- One step: one `tick()` event (R245). -/
def step (s : State) : Host.Outcome State Fault Refusal := tick s

/-- The state with the instruction `w` placed where the next step fetches: its bytes at PC, and a boundary with no request
pending, so that the next step fetches and runs it (R213, R245; notes/assumptions/5.md). -/
def State.withFetchWord (s : State) (nbits w : Nat) : State :=
  (((s.placeBytes s.pc (tableBytes nbits w)).setCyc 0).setIrqReq false).setNmiReq false

end Sys2Proof.Machine
end

