-- ==== Sys2Proof/Machine/Events.lean ====
section
/-! DEFINITION. The interface events of spec/00_scope.md R8, sent one at a time, each running to completion before the
next, and the host's read port (R232). Interrupt requests and resets come from outside the CORE: they reach the machine
as events between ticks (notes/assumptions/7.md). -/

namespace Sys2Proof.Machine

/-- `raise_irq()` (R211): the latch is set and nothing else changes. -/
def State.raiseIrq (s : State) : State := s.setIrqReq true

/-- `raise_nmi()` (R212). -/
def State.raiseNmi (s : State) : State := s.setNmiReq true

/-- `construct(memory)` (R240): a CORE bound to a memory with given parameters, right after its reset sequence. Before that
sequence no state has a value; every field but memory and the parameters is overwritten by it. -/
def State.construct (cfg : Config) (mem : Memory) (a x y : Byte) : State :=
  (State.resetSequence { State.reset with mem := mem, cfg := cfg } a x y)

/-- The events the host sends after construction (R8), and its writes to memory between ticks (R45, D34). -/
inductive Event where
  /-- `tick()` -/
  | tick
  /-- `reset()`, with the values drawn for A, X and Y (R31, R255) -/
  | reset (a x y : Byte)
  /-- `raise_irq()` -/
  | raiseIrq
  /-- `raise_nmi()` -/
  | raiseNmi
  /-- the host changes a byte of memory between ticks -/
  | hostWrite (addr : Word) (v : Byte)
deriving DecidableEq, Repr

/-- One event. Only a tick can stop the machine. -/
def handle (e : Event) (s : State) : Host.Outcome State Fault Refusal :=
  match e with
  | .tick => step s
  | .reset a x y => .next (s.resetSequence a x y)
  | .raiseIrq => .next s.raiseIrq
  | .raiseNmi => .next s.raiseNmi
  | .hostWrite addr v => .next (s.writeByte addr v)

/-- A sequence of events, up to the first stop (R254, R255). -/
def runEvents : List Event → State → Host.Outcome State Fault Refusal
  | [], s => .next s
  | e :: rest, s =>
    match handle e s with
    | .next t => runEvents rest t
    | .fault r => .fault r
    | .refused r => .refused r

/-- What the host may read between events (R232): the registers, the status byte whole and `CYC`; not the latches. -/
structure HostView where
  pc : Word
  sp : Byte
  a : Byte
  x : Byte
  y : Byte
  p : Byte
  cyc : Nat
deriving DecidableEq, Repr

/-- The host's read port (R232), with no side effect. -/
def State.hostView (s : State) : HostView :=
  { pc := s.pc, sp := s.sp, a := s.a, x := s.x, y := s.y, p := s.readP, cyc := s.cyc }

/-- Each flag of P as the host reads it (R17, R232). -/
def HostView.flag (v : HostView) (f : Flag) : Bool := flagOf v.p f

end Sys2Proof.Machine
end

