-- ==== Sys2Proof/Safety.lean ====
section
/-! DEFINITION. What claims call a good state and a safe run. -/

namespace Sys2Proof.Machine

/-- The greatest entry of a list of cycle counts. -/
def maxCount (l : List Nat) : Nat := l.foldr max 0

/-- A bound on what `CYC` is ever loaded with (R23): a reset, an entry, an UNKNOWN, or a base count with at most two extra
cycles (R94, R180). -/
def cycBound (c : Config) : Nat :=
  max (max (max c.resetCycles c.irqCycles) (max c.nmiCycles c.unknownCycles)) (maxCount c.baseCycles + 2)

/-- The invariant of reachable states: memory in canonical form (R40), bit 5 of P set (R17), `CYC` within its bound (R23). -/
structure State.Inv (s : State) : Prop where
  mem_wf : Memory.wf s.mem
  unused_set : s.flag .u = true
  cyc_le : s.cyc ≤ cycBound s.cfg

/-- A sequence of events runs to its end with no fault and no refusal (R223). -/
def SafeRun (es : List Event) (s : State) : Prop := ∃ t, runEvents es s = .next t

end Sys2Proof.Machine
end

