-- ==== Sys2Proof/Certificates/Slice0/Obligations.lean ====
section
/-! DEFINITION. The statements for the provers. `exec i s` runs in a state whose PC is already the address of the next
sequential instruction (spec/10_state.md R15). A statement whose docstring names a log entry rests on what the spec
marks as its own decision or as general knowledge. -/

namespace Sys2Proof.Machine

/-! ### Words the statements use -/

/-- The opcode bytes of an operation, by mode, are exactly those listed: the "Encoding" line of the operation's rule. The
opcode map as a whole is general knowledge (log 11). -/
def encodedAs (o : Op) (rows : List (Mode × Byte)) : Prop := ∀ (b : Byte) (m : Mode), opcodeCell b = (o, m) ↔ (m, b) ∈ rows

/-- Every flag but those listed is as before. -/
def keepsFlags (s t : State) (written : List Flag) : Prop := ∀ f, f ∉ written → t.flag f = s.flag f

/-- Z and N are those of an 8-bit value (R20). -/
def nzOf (t : State) (v : Byte) : Prop := (t.flag .z = true ↔ v = 0) ∧ t.flag .n = v.getLsbD 7

/-- An instruction completes, puts `v` into A, sets Z and N from it and changes nothing else but `CYC`. -/
def loadsA (i : Instr) (s : State) (v : Byte) : Prop :=
  ∃ t, exec i s = .next t ∧ t = { s with a := v, p := t.p, cyc := t.cyc } ∧ nzOf t v ∧ keepsFlags s t [.z, .n]

/-- As `loadsA`, for X. -/
def loadsX (i : Instr) (s : State) (v : Byte) : Prop :=
  ∃ t, exec i s = .next t ∧ t = { s with x := v, p := t.p, cyc := t.cyc } ∧ nzOf t v ∧ keepsFlags s t [.z, .n]

/-- As `loadsA`, for Y. -/
def loadsY (i : Instr) (s : State) (v : Byte) : Prop :=
  ∃ t, exec i s = .next t ∧ t = { s with y := v, p := t.p, cyc := t.cyc } ∧ nzOf t v ∧ keepsFlags s t [.z, .n]

/-- An instruction completes and sets C, Z and N from a comparison of `r` with `m`; no register changes. -/
def compares (i : Instr) (s : State) (r m : Byte) : Prop :=
  ∃ t, exec i s = .next t ∧ t = { s with p := t.p, cyc := t.cyc } ∧ (t.flag .c = true ↔ m.toNat ≤ r.toNat) ∧
    (t.flag .z = true ↔ r = m) ∧ t.flag .n = (r - m).getLsbD 7 ∧ keepsFlags s t [.c, .z, .n]

/-- An instruction completes and stores one byte at `a`: every other byte, every register and every flag is as before. -/
def storesByte (i : Instr) (s : State) (a : Word) (v : Byte) : Prop :=
  ∃ t, exec i s = .next t ∧ t = { s with mem := t.mem, cyc := t.cyc } ∧
    ∀ b, t.readByte b = if b = a then v else s.readByte b

/-- An instruction completes, replaces the byte at `a` by `r`, sets Z and N from it and, if given, C; every other byte, flag
and register is as before. -/
def modifiesByte (i : Instr) (s : State) (a : Word) (r : Byte) (carry : Option Bool) : Prop :=
  ∃ t, exec i s = .next t ∧ t = { s with mem := t.mem, p := t.p, cyc := t.cyc } ∧
    (∀ b, t.readByte b = if b = a then r else s.readByte b) ∧ nzOf t r ∧
    match carry with
    | some c => t.flag .c = c ∧ keepsFlags s t [.c, .z, .n]
    | none => keepsFlags s t [.z, .n]

/-- A shift or rotate: the result into A in the accumulator form, into the operand's own byte else (R124). -/
def shiftsTo (i : ShiftArg → Instr) (o : ShiftArg) (s : State) (r : Byte) (out : Bool) : Prop :=
  match o with
  | .acc =>
    ∃ t, exec (i .acc) s = .next t ∧ t = { s with a := r, p := t.p, cyc := t.cyc } ∧ t.flag .c = out ∧ nzOf t r ∧
      keepsFlags s t [.c, .z, .n]
  | .mem m => modifiesByte (i (.mem m)) s (s.effAddr m) r (some out)

/-- An instruction completes and pushes `v`: the byte `SP` names, SP down by 1 modulo 256, nothing else. -/
def pushesByte (i : Instr) (s : State) (v : Byte) : Prop :=
  ∃ t, exec i s = .next t ∧ t = { s with sp := s.sp - 1, mem := t.mem, cyc := t.cyc } ∧
    ∀ b, t.readByte b = if b = stackAddr s.sp then v else s.readByte b

/-- `t` is `s` after the entry sequence with return address `ret` through `vector` (R215): three bytes pushed, I set, PC the
word the vector held before the pushes; only `CYC` is left open. -/
def entered (s : State) (ret vector : Word) (t : State) : Prop :=
  t = { s with pc := t.pc, sp := s.sp - 3, p := t.p, mem := t.mem, cyc := t.cyc } ∧
  (∀ b, t.readByte b =
    if b = stackAddr s.sp then hi ret
    else if b = stackAddr (s.sp - 1) then lo ret
    else if b = stackAddr (s.sp - 2) then s.p ||| 0x30
    else s.readByte b) ∧
  t.flag .i = true ∧ keepsFlags s t [.i] ∧ t.pc = word (s.readByte (vector + 1)) (s.readByte vector)

/-- The memory operand of an instruction, if it has one. -/
def memArgOf : Instr → Option MemArg
  | .adc (.mem m) | .sbc (.mem m) | .and (.mem m) | .ora (.mem m) | .eor (.mem m) | .cmp (.mem m) | .cpx (.mem m)
  | .cpy (.mem m) | .lda (.mem m) | .ldx (.mem m) | .ldy (.mem m) => some m
  | .asl (.mem m) | .lsr (.mem m) | .rol (.mem m) | .ror (.mem m) => some m
  | .bit m | .sta m | .stx m | .sty m | .inc m | .dec m | .jmp m => some m
  | _ => none

/-- Every opcode of a mode takes exactly these operand bytes, and its instruction has the operand `a`. JSR, whose operand is
a target and no `MemArg`, is left to its own statement. -/
def operandIs (m : Mode) (bytes : List Byte) (a : MemArg) : Prop :=
  ∀ (op : Byte) (rest : List Byte), (opcodeCell op).2 = m → (opcodeCell op).1 ≠ .jsr →
    ∃ i, decode (op :: (bytes ++ rest)) = .ok (i, rest) ∧ memArgOf i = some a

/-- Whether a branch is taken, and its offset byte (R181 to R188). -/
def branchOf (s : State) : Instr → Option (Bool × Byte)
  | .bcc off => some (!s.flag .c, off)
  | .bcs off => some (s.flag .c, off)
  | .bne off => some (!s.flag .z, off)
  | .beq off => some (s.flag .z, off)
  | .bpl off => some (!s.flag .n, off)
  | .bmi off => some (s.flag .n, off)
  | .bvc off => some (!s.flag .v, off)
  | .bvs off => some (s.flag .v, off)
  | _ => none

/-- The cycles a branch adds: none, 1 taken, 2 taken into another page (R180). -/
def branchCycles (s : State) (i : Instr) : Nat :=
  match branchOf s i with
  | some (true, off) => if (s.pc + sext16 off).toNat / 256 = s.pc.toNat / 256 then 1 else 2
  | _ => 0

/-- The page-crossing cycle of an instruction (R94). -/
def pageCycles (s : State) (i : Instr) : Nat :=
  match memArgOf i with
  | some m => if s.crosses m = true ∧ (s.cfg.pagePenalty = .all ∨ plusCell i.op i.mode = true) then 1 else 0
  | none => 0

/-- The flags an operation may write, by the table of R22. -/
def flagsWritten : Op → List Flag
  | .adc | .sbc => [.c, .z, .v, .n]
  | .and | .ora | .eor | .inc | .dec | .inx | .iny | .dex | .dey | .lda | .ldx | .ldy | .pla => [.z, .n]
  | .tax | .tay | .txa | .tya | .tsx => [.z, .n]
  | .bit => [.z, .v, .n]
  | .asl | .lsr | .rol | .ror | .cmp | .cpx | .cpy => [.c, .z, .n]
  | .clc | .sec => [.c]
  | .cli | .sei | .brk => [.i]
  | .cld | .sed => [.d]
  | .clv => [.v]
  | .plp | .rti => [.c, .z, .i, .d, .b, .u, .v, .n]
  | _ => []

/-- The state without what the cycle counts decide: `CYC` and the parameters that are cycle counts (R253). -/
def withoutTiming (s : State) : State :=
  { s with
    cyc := 0
    cfg := { s.cfg with
      resetCycles := 0, irqCycles := 0, nmiCycles := 0, unknownCycles := 0, baseCycles := [], pagePenalty := .all } }

end Sys2Proof.Machine

open Sys2Proof Sys2Proof.Machine

/-! ### Encoding -/

/-- Decoding what the encoder writes gives the instruction back, for every well-formed instruction with every operand, and
leaves the bytes after it (30_encoding.md sections 2 to 4). -/
def Obligations.DecodeOfEncodeIsInstruction : Prop :=
  ∀ (i : Instr) (rest : List Byte), i.wf = true → decode (encode i ++ rest) = .ok (i, rest)

/-- Any three bytes begin with a well-formed instruction, and encoding it gives back the bytes it was read from: decoding
is total and drops no bit (30_encoding.md sections 1, 2; R61's totality). -/
def Obligations.EveryThreeBytesDecode : Prop :=
  ∀ (b0 b1 b2 : Byte) (rest : List Byte), ∃ i r,
    decode (b0 :: b1 :: b2 :: rest) = .ok (i, r) ∧ i.wf = true ∧ encode i ++ r = b0 :: b1 :: b2 :: rest

/-- Words written out from the encodings decode to what they stand for. Every opcode here but 0xA9 is the opcode map's, which
the spec marks as general knowledge (log 11). -/
def Obligations.SampleWordsDecode : Prop :=
  decode [0xA9, 0x45] = .ok (.lda (.imm 0x45), []) ∧
  decode [0x6D, 0x34, 0x12] = .ok (.adc (.mem (.abs 0x1234)), []) ∧
  decode [0x0A] = .ok (.asl .acc, []) ∧
  decode [0x96, 0xF0] = .ok (.stx (.zpy 0xF0), []) ∧
  decode [0xD0, 0xF9] = .ok (.bne 0xF9, []) ∧
  decode [0x6C, 0xFF, 0x02] = .ok (.jmp (.ind 0x02FF), []) ∧
  decode [0x91, 0x10] = .ok (.sta (.izy 0x10), []) ∧
  decode [0x00] = .ok (.brk, []) ∧
  decode [0xFF, 0xA9] = .ok (.unknown 0xFF, [0xA9])

/-! ### Memory and addressing -/

/-- A read returns the byte last written to its address, a write changes no other byte and no register, and a machine just
constructed reads the bytes the host placed (R40). -/
def Obligations.ReadReturnsByteLastWritten : Prop :=
  (∀ (s : State) (a : Word) (v : Byte),
    (∀ b, (s.writeByte a v).readByte b = if b = a then v else s.readByte b) ∧
    s.writeByte a v = { s with mem := (s.writeByte a v).mem }) ∧
  ∀ (cfg : Config) (mem : Memory) (a x y : Byte) (b : Word),
    (State.construct cfg mem a x y).readByte b = Memory.read mem b.toNat

/-- The zero-page modes: the address is the operand byte, plus X or Y modulo 256 in the indexed forms; no page crossing. -/
def Obligations.ZeroPageModesWrapInPageZero : Prop :=
  ∀ (s : State) (b : Byte),
    operandIs .zp [b] (.zp b) ∧ operandIs .zpx [b] (.zpx b) ∧ operandIs .zpy [b] (.zpy b) ∧
    (s.effAddr (.zp b)).toNat = b.toNat ∧
    (s.effAddr (.zpx b)).toNat = (b.toNat + s.x.toNat) % 256 ∧
    (s.effAddr (.zpy b)).toNat = (b.toNat + s.y.toNat) % 256 ∧
    s.crosses (.zp b) = false ∧ s.crosses (.zpx b) = false ∧ s.crosses (.zpy b) = false

/-- The absolute modes: the operand word, plus X or Y modulo 65536, with the page-crossing signal exactly when the high byte
changes. The wrap at 0xFFFF is the spec's decision D19 (log 12). -/
def Obligations.AbsoluteModesAddIndex : Prop :=
  ∀ (s : State) (w : Word),
    operandIs .abs [lo w, hi w] (.abs w) ∧ operandIs .abx [lo w, hi w] (.abx w) ∧
    operandIs .aby [lo w, hi w] (.aby w) ∧
    s.effAddr (.abs w) = w ∧ s.crosses (.abs w) = false ∧
    (s.effAddr (.abx w)).toNat = (w.toNat + s.x.toNat) % 65536 ∧
    (s.effAddr (.aby w)).toNat = (w.toNat + s.y.toNat) % 65536 ∧
    (s.crosses (.abx w) = true ↔ (s.effAddr (.abx w)).toNat / 256 ≠ w.toNat / 256) ∧
    (s.crosses (.aby w) = true ↔ (s.effAddr (.aby w)).toNat / 256 ≠ w.toNat / 256)

/-- The zero-page pointer modes: (indirect,X) indexes the pointer, (indirect),Y the word it holds; both pointer bytes lie in
the zero page. -/
def Obligations.IndirectIndexedModesReadZeroPagePointer : Prop :=
  ∀ (s : State) (b : Byte),
    operandIs .izx [b] (.izx b) ∧ operandIs .izy [b] (.izy b) ∧
    (s.effAddr (.izx b)).toNat =
      (s.readByte (BitVec.ofNat 16 ((b.toNat + s.x.toNat) % 256))).toNat +
      256 * (s.readByte (BitVec.ofNat 16 ((b.toNat + s.x.toNat + 1) % 256))).toNat ∧
    s.crosses (.izx b) = false ∧
    (let base := (s.readByte (BitVec.ofNat 16 b.toNat)).toNat +
      256 * (s.readByte (BitVec.ofNat 16 ((b.toNat + 1) % 256))).toNat
    (s.effAddr (.izy b)).toNat = (base + s.y.toNat) % 65536 ∧
    (s.crosses (.izy b) = true ↔ (s.effAddr (.izy b)).toNat / 256 ≠ base / 256))

/-- The operand of a reading operation: the immediate byte itself, the accumulator in the implied form, else the byte at the
effective address. That an immediate operand is the byte the decoded instruction carries, where the spec reads memory at
the operand's own location, is the model's choice (DEDUCED, log 8). -/
def Obligations.OperandIsByteAtEffectiveAddress : Prop :=
  ∀ (s : State) (b : Byte) (m : MemArg),
    s.readOperand (.imm b) = b ∧ s.readOperand (.mem m) = s.readByte (s.effAddr m) ∧
    s.shiftOperand .acc = s.a ∧ s.shiftOperand (.mem m) = s.readByte (s.effAddr m)

/-- The stack page: the address `SP` names is 0x0100 plus SP, distinct for distinct SP (R14; the convention is D1, log 12). -/
def Obligations.StackAddressLiesInPageOne : Prop :=
  (∀ sp, (stackAddr sp).toNat = 256 + sp.toNat) ∧ ∀ p q, stackAddr p = stackAddr q → p = q

/-! ### Arithmetic, logic, compare -/

/-- ADC: the 8-bit sum with carry-in, its carry out of 8 bits, Z, N, and V when the operands' signs are equal and the
result's differs; A and those four flags alone change. -/
def Obligations.AdcAddsWithCarry : Prop :=
  encodedAs .adc [(.imm, 0x69), (.zp, 0x65), (.zpx, 0x75), (.abs, 0x6D), (.abx, 0x7D), (.aby, 0x79), (.izx, 0x61), (.izy, 0x71)] ∧
  ∀ (o : ReadArg) (s : State), (Instr.adc o).wf = true →
    ∃ t, exec (.adc o) s = .next t ∧ t = { s with a := t.a, p := t.p, cyc := t.cyc } ∧
      (let m := s.readOperand o
      let sum := s.a.toNat + m.toNat + (s.flag .c).toNat
      t.a.toNat = sum % 256 ∧ (t.flag .c = true ↔ 255 < sum) ∧ nzOf t t.a ∧
      (t.flag .v = true ↔ s.a.getLsbD 7 = m.getLsbD 7 ∧ t.a.getLsbD 7 ≠ s.a.getLsbD 7)) ∧
      keepsFlags s t [.c, .z, .n, .v]

/-- SBC: A - operand - (1 - C) modulo 256, C when there is no borrow, V when the true signed difference does not fit 8
bits; A and C, Z, N, V alone change. The reading of V is the spec's decision D32 with C4 (log 12). -/
def Obligations.SbcSubtractsWithBorrow : Prop :=
  encodedAs .sbc [(.imm, 0xE9), (.zp, 0xE5), (.zpx, 0xF5), (.abs, 0xED), (.abx, 0xFD), (.aby, 0xF9), (.izx, 0xE1), (.izy, 0xF1)] ∧
  ∀ (o : ReadArg) (s : State), (Instr.sbc o).wf = true →
    ∃ t, exec (.sbc o) s = .next t ∧ t = { s with a := t.a, p := t.p, cyc := t.cyc } ∧
      (let m := s.readOperand o
      let borrow := (!s.flag .c).toNat
      t.a.toNat = (256 + s.a.toNat - m.toNat - borrow) % 256 ∧ (t.flag .c = true ↔ m.toNat + borrow ≤ s.a.toNat) ∧
      nzOf t t.a ∧
      (t.flag .v = true ↔ s.a.toInt - m.toInt - borrow < -128 ∨ 127 < s.a.toInt - m.toInt - borrow)) ∧
      keepsFlags s t [.c, .z, .n, .v]

/-- SBC of a byte leaves the A and P that ADC of its complement leaves (41_arith_logic.md section 4). -/
def Obligations.SbcIsAdcOfComplement : Prop :=
  ∀ (b : Byte) (s : State), ∃ t u, exec (.sbc (.imm b)) s = .next t ∧ exec (.adc (.imm (b ^^^ 0xFF))) s = .next u ∧
    t = { u with cyc := t.cyc }

/-- ADC's overflow flag is 1 exactly when the signed sum does not fit 8 bits (41_arith_logic.md section 4). -/
def Obligations.AdcOverflowIsSignedOverflow : Prop :=
  ∀ (o : ReadArg) (s t : State), exec (.adc o) s = .next t →
    (let exact := s.a.toInt + (s.readOperand o).toInt + (s.flag .c).toNat
    t.flag .v = true ↔ exact < -128 ∨ 127 < exact)

/-- The decimal flag does not alter ADC or SBC: with D set or cleared before it, the instruction leaves the same A, the same
other flags and the same rest of the state, and D as it was. -/
def Obligations.DecimalFlagDoesNotAlterAdcSbc : Prop :=
  ∀ (i : ReadArg → Instr), i = Instr.adc ∨ i = Instr.sbc → ∀ (o : ReadArg) (s t : State) (d : Bool),
    exec (i o) s = .next t → exec (i o) (s.setFlag .d d) = .next (t.setFlag .d d)

/-- AND, ORA and EOR combine A with the operand bit by bit and set Z and N from the new A. -/
def Obligations.AndOraEorCombineWithAccumulator : Prop :=
  encodedAs .and [(.imm, 0x29), (.zp, 0x25), (.zpx, 0x35), (.abs, 0x2D), (.abx, 0x3D), (.aby, 0x39), (.izx, 0x21), (.izy, 0x31)] ∧
  encodedAs .ora [(.imm, 0x09), (.zp, 0x05), (.zpx, 0x15), (.abs, 0x0D), (.abx, 0x1D), (.aby, 0x19), (.izx, 0x01), (.izy, 0x11)] ∧
  encodedAs .eor [(.imm, 0x49), (.zp, 0x45), (.zpx, 0x55), (.abs, 0x4D), (.abx, 0x5D), (.aby, 0x59), (.izx, 0x41), (.izy, 0x51)] ∧
  ∀ (o : ReadArg) (s : State),
    ((Instr.and o).wf = true → loadsA (.and o) s (s.a &&& s.readOperand o)) ∧
    ((Instr.ora o).wf = true → loadsA (.ora o) s (s.a ||| s.readOperand o)) ∧
    ((Instr.eor o).wf = true → loadsA (.eor o) s (s.a ^^^ s.readOperand o))

/-- BIT: Z from the AND of A and the memory byte, N and V from the byte's bits 7 and 6; nothing else changes. -/
def Obligations.BitTestsMemoryByte : Prop :=
  encodedAs .bit [(.zp, 0x24), (.abs, 0x2C)] ∧
  ∀ (o : MemArg) (s : State), (Instr.bit o).wf = true →
    ∃ t, exec (.bit o) s = .next t ∧ t = { s with p := t.p, cyc := t.cyc } ∧
      (let m := s.readByte (s.effAddr o)
      (t.flag .z = true ↔ s.a &&& m = 0) ∧ t.flag .n = m.getLsbD 7 ∧ t.flag .v = m.getLsbD 6) ∧
      keepsFlags s t [.z, .n, .v]

/-- CMP, CPX and CPY: C when the register is at least the operand, Z when equal, N bit 7 of the difference; nothing else. -/
def Obligations.CompareSetsCarryZeroNegative : Prop :=
  encodedAs .cmp [(.imm, 0xC9), (.zp, 0xC5), (.zpx, 0xD5), (.abs, 0xCD), (.abx, 0xDD), (.aby, 0xD9), (.izx, 0xC1), (.izy, 0xD1)] ∧
  encodedAs .cpx [(.imm, 0xE0), (.zp, 0xE4), (.abs, 0xEC)] ∧
  encodedAs .cpy [(.imm, 0xC0), (.zp, 0xC4), (.abs, 0xCC)] ∧
  ∀ (o : ReadArg) (s : State),
    ((Instr.cmp o).wf = true → compares (.cmp o) s s.a (s.readOperand o)) ∧
    ((Instr.cpx o).wf = true → compares (.cpx o) s s.x (s.readOperand o)) ∧
    ((Instr.cpy o).wf = true → compares (.cpy o) s s.y (s.readOperand o))

/-! ### Shift, rotate, increment, decrement -/

/-- ASL and LSR: the byte doubled modulo 256 or halved, C the bit shifted out, Z and N from the result, into A in the
accumulator form and into the operand's own byte else. -/
def Obligations.AslLsrShiftOperand : Prop :=
  encodedAs .asl [(.imp, 0x0A), (.zp, 0x06), (.zpx, 0x16), (.abs, 0x0E), (.abx, 0x1E)] ∧
  encodedAs .lsr [(.imp, 0x4A), (.zp, 0x46), (.zpx, 0x56), (.abs, 0x4E), (.abx, 0x5E)] ∧
  ∀ (o : ShiftArg) (s : State),
    (let m := s.shiftOperand o
    ((Instr.asl o).wf = true → shiftsTo .asl o s (BitVec.ofNat 8 (2 * m.toNat)) (m.getLsbD 7)) ∧
    ((Instr.lsr o).wf = true → shiftsTo .lsr o s (BitVec.ofNat 8 (m.toNat / 2)) (m.getLsbD 0)))

/-- ROL and ROR: a 9-bit rotation of C and the byte: the old C into the vacated bit, C the bit shifted out. -/
def Obligations.RolRorRotateThroughCarry : Prop :=
  encodedAs .rol [(.imp, 0x2A), (.zp, 0x26), (.zpx, 0x36), (.abs, 0x2E), (.abx, 0x3E)] ∧
  encodedAs .ror [(.imp, 0x6A), (.zp, 0x66), (.zpx, 0x76), (.abs, 0x6E), (.abx, 0x7E)] ∧
  ∀ (o : ShiftArg) (s : State),
    (let m := s.shiftOperand o
    let c := (s.flag .c).toNat
    ((Instr.rol o).wf = true → shiftsTo .rol o s (BitVec.ofNat 8 (2 * m.toNat + c)) (m.getLsbD 7)) ∧
    ((Instr.ror o).wf = true → shiftsTo .ror o s (BitVec.ofNat 8 (m.toNat / 2 + 128 * c)) (m.getLsbD 0)))

/-- INC and DEC: the memory byte plus or minus 1 modulo 256, Z and N from it, no other flag, register or byte. -/
def Obligations.IncDecModifyMemoryByte : Prop :=
  encodedAs .inc [(.zp, 0xE6), (.zpx, 0xF6), (.abs, 0xEE), (.abx, 0xFE)] ∧
  encodedAs .dec [(.zp, 0xC6), (.zpx, 0xD6), (.abs, 0xCE), (.abx, 0xDE)] ∧
  ∀ (o : MemArg) (s : State),
    (let m := (s.readByte (s.effAddr o)).toNat
    ((Instr.inc o).wf = true → modifiesByte (.inc o) s (s.effAddr o) (BitVec.ofNat 8 (m + 1)) none) ∧
    ((Instr.dec o).wf = true → modifiesByte (.dec o) s (s.effAddr o) (BitVec.ofNat 8 (m + 255)) none))

/-- INX, INY, DEX and DEY: the index register plus or minus 1 modulo 256, Z and N from it, nothing else. -/
def Obligations.IndexRegistersStepByOne : Prop :=
  encodedAs .inx [(.imp, 0xE8)] ∧ encodedAs .iny [(.imp, 0xC8)] ∧ encodedAs .dex [(.imp, 0xCA)] ∧
  encodedAs .dey [(.imp, 0x88)] ∧
  ∀ s : State, loadsX .inx s (BitVec.ofNat 8 (s.x.toNat + 1)) ∧ loadsY .iny s (BitVec.ofNat 8 (s.y.toNat + 1)) ∧
    loadsX .dex s (BitVec.ofNat 8 (s.x.toNat + 255)) ∧ loadsY .dey s (BitVec.ofNat 8 (s.y.toNat + 255))

/-! ### Load, store, transfer -/

/-- LDA, LDX and LDY put the operand byte into the register and set Z and N from it; nothing else changes. -/
def Obligations.LoadsSetRegisterAndFlags : Prop :=
  encodedAs .lda [(.imm, 0xA9), (.zp, 0xA5), (.zpx, 0xB5), (.abs, 0xAD), (.abx, 0xBD), (.aby, 0xB9), (.izx, 0xA1), (.izy, 0xB1)] ∧
  encodedAs .ldx [(.imm, 0xA2), (.zp, 0xA6), (.zpy, 0xB6), (.abs, 0xAE), (.aby, 0xBE)] ∧
  encodedAs .ldy [(.imm, 0xA0), (.zp, 0xA4), (.zpx, 0xB4), (.abs, 0xAC), (.abx, 0xBC)] ∧
  ∀ (o : ReadArg) (s : State),
    ((Instr.lda o).wf = true → loadsA (.lda o) s (s.readOperand o)) ∧
    ((Instr.ldx o).wf = true → loadsX (.ldx o) s (s.readOperand o)) ∧
    ((Instr.ldy o).wf = true → loadsY (.ldy o) s (s.readOperand o))

/-- STA, STX and STY store the register at the effective address; every other byte, every register and every flag is as
before. STA pays the page-crossing cycle under `PAGE_PENALTY_MODE = all` and not under `reads_only`. -/
def Obligations.StoresWriteOneByte : Prop :=
  encodedAs .sta [(.zp, 0x85), (.zpx, 0x95), (.abs, 0x8D), (.abx, 0x9D), (.aby, 0x99), (.izx, 0x81), (.izy, 0x91)] ∧
  encodedAs .stx [(.zp, 0x86), (.zpy, 0x96), (.abs, 0x8E)] ∧
  encodedAs .sty [(.zp, 0x84), (.zpx, 0x94), (.abs, 0x8C)] ∧
  ∀ (o : MemArg) (s : State),
    ((Instr.sta o).wf = true → storesByte (.sta o) s (s.effAddr o) s.a) ∧
    ((Instr.stx o).wf = true → storesByte (.stx o) s (s.effAddr o) s.x) ∧
    ((Instr.sty o).wf = true → storesByte (.sty o) s (s.effAddr o) s.y) ∧
    ∀ t b, exec (.sta o) s = .next t → opcodeOf .sta o.mode = some b →
      t.cyc = baseCost s.cfg b + if s.crosses o = true ∧ s.cfg.pagePenalty = .all then 1 else 0

/-- The transfers copy one register to another; all but TXS set Z and N; nothing else changes. -/
def Obligations.TransfersCopyRegister : Prop :=
  encodedAs .tax [(.imp, 0xAA)] ∧ encodedAs .tay [(.imp, 0xA8)] ∧ encodedAs .txa [(.imp, 0x8A)] ∧
  encodedAs .tya [(.imp, 0x98)] ∧ encodedAs .tsx [(.imp, 0xBA)] ∧ encodedAs .txs [(.imp, 0x9A)] ∧
  ∀ s : State, loadsX .tax s s.a ∧ loadsY .tay s s.a ∧ loadsA .txa s s.x ∧ loadsA .tya s s.y ∧ loadsX .tsx s s.sp ∧
    ∃ t, exec .txs s = .next t ∧ t = { s with sp := s.x, cyc := t.cyc }

/-! ### Stack and flags -/

/-- PHA pushes A and PHP the whole status byte, bit 5 reading 1. The stack discipline is the spec's decision D27, what PHP
pushes D14 (log 11, log 12). -/
def Obligations.PhaPhpPushByte : Prop :=
  ∀ s : State, pushesByte .pha s s.a ∧ pushesByte .php s (s.p ||| 0x20)

/-- PLA and PLP pull the byte above SP: into A with Z and N from it, or into the whole status byte with bit 5 set. The stack
discipline is the spec's decision D27 (log 11, log 12). -/
def Obligations.PlaPlpPullByte : Prop :=
  ∀ s : State,
    (let v := s.readByte (stackAddr (s.sp + 1))
    (∃ t, exec .pla s = .next t ∧ t = { s with a := v, sp := s.sp + 1, p := t.p, cyc := t.cyc } ∧ nzOf t v ∧
      keepsFlags s t [.z, .n]) ∧
    ∃ t, exec .plp s = .next t ∧ t = { s with p := v ||| 0x20, sp := s.sp + 1, cyc := t.cyc })

/-- PHA, then any change of A, X, Y, P and PC, then PLA gives A and SP back, for every SP, and memory keeps every byte but
the pushed one (44_stack_flags.md section 1). -/
def Obligations.PhaThenPlaRoundTrips : Prop :=
  ∀ (s : State) (a x y p : Byte) (pc : Word), ∃ t u, exec .pha s = .next t ∧
    exec .pla { t with a := a, x := x, y := y, p := p, pc := pc } = .next u ∧ u.a = s.a ∧ u.sp = s.sp ∧
    ∀ b, b ≠ stackAddr s.sp → u.readByte b = s.readByte b

/-- The seven single-flag operations write their flag and nothing else. The spec supplies them from general knowledge
(log 11). -/
def Obligations.FlagOperationsWriteOneFlag : Prop :=
  ∀ s : State, ∀ r ∈ [(Instr.clc, Flag.c, false), (Instr.sec, Flag.c, true), (Instr.cli, Flag.i, false),
      (Instr.sei, Flag.i, true), (Instr.clv, Flag.v, false), (Instr.cld, Flag.d, false), (Instr.sed, Flag.d, true)],
    ∃ t, exec r.1 s = .next t ∧ t = { s with p := t.p, cyc := t.cyc } ∧ t.flag r.2.1 = r.2.2 ∧ keepsFlags s t [r.2.1]

/-! ### Control -/

/-- The eight branches: PC moves by the signed offset, modulo 65536, when the tested flag has the tested value, else not;
no register, flag or byte of memory changes. Which flag and sense each tests is general knowledge (log 11), the wrap the
spec's decision D19 (log 12). -/
def Obligations.BranchesAddOffsetWhenTaken : Prop :=
  ∀ r ∈ [(Instr.bcc, Flag.c, false), (Instr.bcs, Flag.c, true), (Instr.bne, Flag.z, false), (Instr.beq, Flag.z, true),
      (Instr.bpl, Flag.n, false), (Instr.bmi, Flag.n, true), (Instr.bvc, Flag.v, false), (Instr.bvs, Flag.v, true)],
    ∀ (off : Byte) (s : State), ∃ t, exec (r.1 off) s = .next t ∧ t = { s with pc := t.pc, cyc := t.cyc } ∧
      t.pc = if s.flag r.2.1 = r.2.2 then BitVec.ofInt 16 (s.pc.toNat + off.toInt) else s.pc

/-- JMP: PC becomes the operand word, or in the indirect form the word at the pointer, whose high byte comes from the start
of the same page when the pointer's low byte is 0xFF; nothing else changes. -/
def Obligations.JmpSetsPcToResolvedAddress : Prop :=
  encodedAs .jmp [(.abs, 0x4C), (.ind, 0x6C)] ∧ (∀ b, (opcodeCell b).2 = .ind → b = 0x6C) ∧
  ∀ (w : Word) (s : State),
    operandIs .abs [lo w, hi w] (.abs w) ∧ operandIs .ind [lo w, hi w] (.ind w) ∧ s.crosses (.ind w) = false ∧
    (∃ t, exec (.jmp (.abs w)) s = .next t ∧ t = { s with pc := w, cyc := t.cyc }) ∧
    ∃ t, exec (.jmp (.ind w)) s = .next t ∧ t = { s with pc := t.pc, cyc := t.cyc } ∧
      t.pc.toNat = (s.readByte w).toNat +
        256 * (s.readByte (BitVec.ofNat 16 (w.toNat / 256 * 256 + (w.toNat + 1) % 256))).toNat

/-- JSR pushes PC - 1, the address of its own last byte, high byte first, and jumps. The stack discipline is the spec's
decision D27 (log 11, log 12). -/
def Obligations.JsrPushesReturnAddress : Prop :=
  ∀ (target : Word) (s : State), ∃ t, exec (.jsr target) s = .next t ∧
    t = { s with pc := target, sp := s.sp - 2, mem := t.mem, cyc := t.cyc } ∧
    ∀ b, t.readByte b =
      if b = stackAddr s.sp then hi (s.pc - 1) else if b = stackAddr (s.sp - 1) then lo (s.pc - 1) else s.readByte b

/-- RTS pulls a word, low byte first, and adds 1 to it. The stack discipline is the spec's decision D27 (log 11, log 12). -/
def Obligations.RtsReturnsPastPulledAddress : Prop :=
  ∀ s : State, ∃ t, exec .rts s = .next t ∧
    t = { s with
      pc := word (s.readByte (stackAddr (s.sp + 2))) (s.readByte (stackAddr (s.sp + 1))) + 1
      sp := s.sp + 2
      cyc := t.cyc }

/-- JSR, then any change of A, X, Y, P and PC, then RTS restores PC to the address after the JSR, and SP, for every SP and
PC (45_control.md section 2). -/
def Obligations.JsrThenRtsRestoresPc : Prop :=
  ∀ (target : Word) (s : State) (a x y p : Byte) (pc : Word), ∃ t u, exec (.jsr target) s = .next t ∧
    exec .rts { t with a := a, x := x, y := y, p := p, pc := pc } = .next u ∧ u.pc = s.pc ∧ u.sp = s.sp

/-! ### System -/

/-- BRK takes the entry through 0xFFFE, whatever I holds, with PC + BRK_PAD as the return address; the live B is not
changed. The pad is a parameter (D11, log 1), the stack discipline D27 (log 11, log 12). -/
def Obligations.BrkTakesEntry : Prop :=
  ∀ s : State, ∃ t, exec .brk s = .next t ∧ entered s (s.pc + BitVec.ofNat 16 s.cfg.brkPad.val) 0xFFFE t

/-- RTI pulls the status byte, bit 5 set, then PC low, then PC high, with no increment; nothing else changes. The stack
discipline is the spec's decision D27 (log 11, log 12). -/
def Obligations.RtiPullsStatusThenPc : Prop :=
  ∀ s : State, ∃ t, exec .rti s = .next t ∧
    t = { s with
      p := s.readByte (stackAddr (s.sp + 1)) ||| 0x20
      pc := word (s.readByte (stackAddr (s.sp + 3))) (s.readByte (stackAddr (s.sp + 2)))
      sp := s.sp + 3
      cyc := t.cyc }

/-- An entry through any vector, then any change of A, X, Y, P and PC, then RTI restores PC and SP, and P with B and U set
(60_exceptions.md section 4; 46_system.md, RTI). -/
def Obligations.EntryThenRtiRestoresPcAndStatus : Prop :=
  ∀ (vector : Word) (s : State) (a x y p : Byte) (pc : Word), ∃ u,
    exec .rti { s.enter vector with a := a, x := x, y := y, p := p, pc := pc } = .next u ∧
    u.pc = s.pc ∧ u.sp = s.sp ∧ u.p = s.p ||| 0x30

/-- NOP changes nothing but `CYC`, which is loaded with its base count, 2 by default; a tick that fetches it moves PC on by 1.
The count is general knowledge (log 11). -/
def Obligations.NopChangesNothing : Prop :=
  encodedAs .nop [(.imp, 0xEA)] ∧ baseCost defaultConfig 0xEA = 2 ∧
  (∀ s : State, exec .nop s = .next { s with cyc := baseCost s.cfg 0xEA }) ∧
  ∀ s : State, s.cyc = 0 → s.nmiReq = false → s.irqReq = false → s.readByte s.pc = 0xEA →
    step s = .next { s with pc := s.pc + 1, cyc := baseCost s.cfg 0xEA - 1 }

/-- Each of the 105 unassigned bytes is a one-byte instruction that changes nothing but `CYC`, loaded with UNKNOWN_CYCLES. The
set of bytes is general knowledge (log 11), the cost the spec's decision D16 (log 12). -/
def Obligations.UnknownIsOneByteNoOp : Prop :=
  unassignedBytes.length = 105 ∧ unassignedBytes.Nodup ∧
  ∀ b ∈ unassignedBytes, (∀ rest, decode (b :: rest) = .ok (.unknown b, rest)) ∧
    ∀ s : State, exec (.unknown b) s = .next { s with cyc := s.cfg.unknownCycles }

/-- An instruction completes exactly when the opcode table has its row; a term with no row is the invariant violation, and
no term is refused (46_system.md, INVALID; log 10). -/
def Obligations.ExecCompletesExactlyOnTableRows : Prop :=
  ∀ (i : Instr) (s : State),
    (i.wf = true → ∃ t, exec i s = .next t) ∧ (i.wf = false → exec i s = .fault .invalidOperation)

/-! ### Whole-machine rules over all instructions -/

/-- The cost an instruction loads into `CYC`: its base count, the page-crossing cycle and a branch's own cycles. How they
combine is the spec's decision D15 (log 12). -/
def Obligations.CostIsBasePlusExtras : Prop :=
  ∀ (i : Instr) (s t : State) (b : Byte), exec i s = .next t → i.opcode = some b →
    t.cyc = baseCost s.cfg b + pageCycles s i + branchCycles s i

/-- A flag that the table of 10_state.md section 4 does not mark as written by an operation is never changed by it. -/
def Obligations.FlagsChangeOnlyAsTabled : Prop :=
  ∀ (i : Instr) (s t : State), exec i s = .next t → keepsFlags s t (flagsWritten i.op)

/-- A, X, Y, SP, PC and memory change only under the operations 10_state.md and 20_memory.md section 6 name for each; no
instruction touches a request latch. The list of accesses in that section is the spec's decision D20 (log 12); that no
instruction changes a parameter is the model's choice (log 1). -/
def Obligations.StateChangesOnlyUnderNamedOperations : Prop :=
  ∀ (i : Instr) (s t : State), exec i s = .next t →
    (i.op ∉ [Op.adc, .sbc, .and, .ora, .eor, .lda, .pla, .txa, .tya] → i.mode ≠ .imp ∨ i.op ∉ [Op.asl, .lsr, .rol, .ror] →
      t.a = s.a) ∧
    (i.op ∉ [Op.ldx, .tax, .tsx, .inx, .dex] → t.x = s.x) ∧
    (i.op ∉ [Op.ldy, .tay, .iny, .dey] → t.y = s.y) ∧
    (i.op ∉ [Op.pha, .php, .pla, .plp, .jsr, .rts, .brk, .rti, .txs] → t.sp = s.sp) ∧
    (i.op ∉ [Op.bcc, .bcs, .beq, .bne, .bmi, .bpl, .bvc, .bvs, .jmp, .jsr, .rts, .rti, .brk] → t.pc = s.pc) ∧
    (i.op ∉ [Op.sta, .stx, .sty, .asl, .lsr, .rol, .ror, .inc, .dec, .pha, .php, .jsr, .brk] → t.mem = s.mem) ∧
    t.irqReq = s.irqReq ∧ t.nmiReq = s.nmiReq ∧ t.cfg = s.cfg

/-- What an instruction computes does not depend on any cycle count: two states that differ only in `CYC` and in the cycle
parameters go to states that differ only there (70_reset_and_hazards.md section 5). -/
def Obligations.ResultsDoNotDependOnCycleCounts : Prop :=
  ∀ (i : Instr) (s s' t : State), withoutTiming s = withoutTiming s' → exec i s = .next t →
    ∃ t', exec i s' = .next t' ∧ withoutTiming t = withoutTiming t'

/-! ### The tick, interrupts and reset -/

/-- A tick that begins a boundary with no request to take runs the instruction whose bytes stand at PC: PC moves past its
bytes, the instruction executes, and `CYC`, loaded with its cost, counts down once. -/
def Obligations.StepRunsDecodedInstruction : Prop :=
  ∀ (i : Instr) (s : State), i.wf = true → s.cyc = 0 → s.nmiReq = false → s.irqReq = false →
    (∀ k b, (encode i)[k]? = some b → s.readByte (s.pc + BitVec.ofNat 16 k) = b) →
    ∃ t, exec i { s with pc := s.pc + BitVec.ofNat 16 i.mode.length } = .next t ∧
      step s = .next { t with cyc := t.cyc - 1 }

/-- A tick that begins with `CYC > 0` changes `CYC` only, by 1. -/
def Obligations.CountdownTickChangesCycOnly : Prop :=
  ∀ s : State, 0 < s.cyc → step s = .next { s with cyc := s.cyc - 1 }

/-- A pending NMI is taken at a boundary whatever I and the IRQ latch hold, in place of a fetch: the latch is cleared, the
entry pushes PC, and `CYC` is loaded and counted once. Its priority and its place are the spec's decisions D8 and D10 (log
12), its cycles a parameter (D9, log 1). -/
def Obligations.NmiIsTakenAtBoundary : Prop :=
  ∀ s : State, s.cyc = 0 → s.nmiReq = true → ∃ t, step s = .next t ∧ entered { s with nmiReq := false } s.pc 0xFFFA t ∧
    t.cyc = s.cfg.nmiCycles - 1

/-- A pending IRQ with I clear and no NMI pending is taken at a boundary in place of a fetch. The latch and its place are the
spec's decisions D6 and D10 (log 12), its cycles a parameter (D9, log 1). -/
def Obligations.IrqIsTakenAtBoundaryWhenUnmasked : Prop :=
  ∀ s : State, s.cyc = 0 → s.nmiReq = false → s.irqReq = true → s.flag .i = false →
    ∃ t, step s = .next t ∧ entered { s with irqReq := false } s.pc 0xFFFE t ∧ t.cyc = s.cfg.irqCycles - 1

/-- A pending IRQ with I set is ignored at a boundary: the tick does what it does without the request, and the request is
dropped, or stays pending where IRQ_MASKED_HOLD is set (D7, log 1). -/
def Obligations.MaskedIrqIsIgnored : Prop :=
  ∀ s : State, s.cyc = 0 → s.nmiReq = false → s.irqReq = true → s.flag .i = true →
    ∃ t, step { s with irqReq := false } = .next t ∧ step s = .next { t with irqReq := s.cfg.irqMaskedHold }

/-- After CLI a pending IRQ is taken at the very next boundary, before another instruction (60_exceptions.md section 4). -/
def Obligations.PendingIrqIsTakenRightAfterCli : Prop :=
  ∀ s : State, s.nmiReq = false → s.irqReq = true → ∃ t, exec .cli s = .next t ∧
    ∃ u, step { t with cyc := 0 } = .next u ∧ u.irqReq = false ∧
      u.pc = word (s.readByte 0xFFFF) (s.readByte 0xFFFE) ∧ u.readByte (stackAddr s.sp) = hi s.pc

/-- Reset loads PC from 0xFFFC, SP, P and `CYC` from their parameters with bit 5 of P set, and clears both latches; A, X and Y
are whatever was drawn; memory is not written. The parameters and the latches are the spec's decisions (D2 to D5, D21; log 1,
log 12). -/
def Obligations.ResetSequenceLoadsPowerUpValues : Prop :=
  ∀ (a x y : Byte) (s : State), ∃ t, handle (.reset a x y) s = .next t ∧ t.a = a ∧ t.x = x ∧ t.y = y ∧
    t.sp = s.cfg.spReset ∧ t.pc = word (s.readByte 0xFFFD) (s.readByte 0xFFFC) ∧ t.p = s.cfg.pReset ||| 0x20 ∧
    t.cyc = s.cfg.resetCycles ∧ t.irqReq = false ∧ t.nmiReq = false ∧ t.mem = s.mem ∧ t.cfg = s.cfg

/-- The requests set their latch and nothing else, and a second one changes nothing (D6, D30; log 12). -/
def Obligations.RequestsSetTheirLatchOnly : Prop :=
  ∀ s : State, ∃ t u, handle .raiseIrq s = .next t ∧ t = { s with irqReq := true } ∧ handle .raiseIrq t = .next t ∧
    handle .raiseNmi s = .next u ∧ u = { s with nmiReq := true } ∧ handle .raiseNmi u = .next u

/-! ### Invariants and safety -/

/-- The invariant holds at reset. The state's memory and parameters are the model's choices (log 1, log 3). -/
def Obligations.ResetStateMeetsInvariant : Prop := State.reset.Inv

/-- Every step keeps the invariant: memory in canonical form, bit 5 of P set, `CYC` within its bound. -/
def Obligations.StepKeepsInvariant : Prop := ∀ s t : State, s.Inv → step s = .next t → t.Inv

/-- Along every sequence of host events from a state that meets the invariant, the invariant holds. -/
def Obligations.EveryEventSequenceKeepsInvariant : Prop :=
  ∀ (es : List Event) (s t : State), s.Inv → runEvents es s = .next t → t.Inv

/-- No sequence of host events, from any state whatever, stops the machine: no step faults or refuses (60_exceptions.md
section 4, 46_system.md). -/
def Obligations.NoEventSequenceStopsTheMachine : Prop := ∀ (es : List Event) (s : State), SafeRun es s

/-- With the spec's base cycle table and UNKNOWN_CYCLES at most 8, `CYC` after a tick is below the largest value loaded:
RESET_CYCLES, IRQ_CYCLES, NMI_CYCLES or 8. The table is general knowledge (log 11). -/
def Obligations.CycStaysBelowLargestCost : Prop :=
  ∀ s t : State, s.cfg.baseCycles = defaultBaseCycles → s.cfg.unknownCycles ≤ 8 →
    s.cyc ≤ max (max s.cfg.resetCycles s.cfg.irqCycles) (max s.cfg.nmiCycles 8) → step s = .next t →
    t.cyc ≤ max (max s.cfg.resetCycles s.cfg.irqCycles) (max s.cfg.nmiCycles 8) - 1
end

