-- ==== Sys2Proof/Laws/Decode.lean ====
section
/-! SUPPORT. The tables of the decoder, the encoder and the well-formedness check agree row by row (R69, R70). -/

namespace Sys2Proof

/-- Every row of the encoder's table is a cell of the decoder's map. -/
theorem opcodeCell_of_mem_opcodeRows (o : Op) : ∀ r ∈ opcodeRows o, opcodeCell r.2 = (o, r.1) := by
  cases o <;> decide

/-- The encoder's table has each mode of an operation once. -/
theorem opcodeRows_nodup (o : Op) : ((opcodeRows o).map Prod.fst).Nodup := by
  cases o <;> decide

theorem mem_of_lookup_eq_some {α β : Type} [BEq α] [LawfulBEq α] {l : List (α × β)} {a : α} {b : β}
    (h : l.lookup a = some b) : (a, b) ∈ l := by
  induction l with
  | nil => simp at h
  | cons c rest ih =>
    obtain ⟨k, v⟩ := c
    simp only [List.lookup_cons] at h
    split at h
    · rename_i hk
      simp_all
    · simp [ih h]

/-- An opcode the encoder gives selects the same operation and mode in the decoder. -/
theorem opcodeCell_of_opcodeOf {o : Op} {m : Mode} {b : Byte} (h : opcodeOf o m = some b) :
    opcodeCell b = (o, m) :=
  opcodeCell_of_mem_opcodeRows o _ (mem_of_lookup_eq_some h)

/-- The encoder's table has exactly the modes the operation's own rule lists. -/
theorem opcodeOf_isSome (o : Op) (m : Mode) : (opcodeOf o m).isSome = o.modes.contains m := by
  cases o <;> cases m <;> decide

/-- A byte is unassigned exactly when its cell is the unknown descriptor. -/
theorem unassigned_iff (b : Byte) : unassignedBytes.contains b = decide (opcodeCell b = unassignedCell) := by
  revert b
  decide

/-- No cell of the map is the tag INVALID (R67). -/
theorem opcodeCell_ne_invalid (b : Byte) : (opcodeCell b).1 ≠ .invalid := by
  revert b
  decide

/-- UNKNOWN stands in the map in mode IMP only (R66). -/
theorem mode_of_unknown (b : Byte) : (opcodeCell b).1 = .unknown → (opcodeCell b).2 = .imp := by
  revert b
  decide

/-- An assigned cell of the map is a row of the encoder's table. -/
theorem opcodeOf_opcodeCell (b : Byte) :
    (opcodeCell b).1 ≠ .unknown → opcodeOf (opcodeCell b).1 (opcodeCell b).2 = some b := by
  revert b
  decide

/-- A well-formed term other than UNKNOWN has a row in the table. -/
theorem opcodeOf_of_contains {o : Op} {m : Mode} (h : o.modes.contains m = true) : ∃ b, opcodeOf o m = some b :=
  Option.isSome_iff_exists.mp (by rw [opcodeOf_isSome, h])

/-- A term whose mode its operation does not have has no row. -/
theorem opcodeOf_of_not_contains {o : Op} {m : Mode} (h : o.modes.contains m = false) : opcodeOf o m = none := by
  have := opcodeOf_isSome o m
  rw [h] at this
  simpa using this

end Sys2Proof
end

