-- ==== Sys2Proof/Laws/State.lean ====
section
/-! SUPPORT. One lemma per field per update of State, so that no later proof unfolds a record update. -/

namespace Sys2Proof.Machine

variable (s : State)

section
variable (v : Byte)
@[simp] theorem State.setA_a : (s.setA v).a = v := rfl
@[simp] theorem State.setA_x : (s.setA v).x = s.x := rfl
@[simp] theorem State.setA_y : (s.setA v).y = s.y := rfl
@[simp] theorem State.setA_sp : (s.setA v).sp = s.sp := rfl
@[simp] theorem State.setA_pc : (s.setA v).pc = s.pc := rfl
@[simp] theorem State.setA_p : (s.setA v).p = s.p := rfl
@[simp] theorem State.setA_cyc : (s.setA v).cyc = s.cyc := rfl
@[simp] theorem State.setA_irqReq : (s.setA v).irqReq = s.irqReq := rfl
@[simp] theorem State.setA_nmiReq : (s.setA v).nmiReq = s.nmiReq := rfl
@[simp] theorem State.setA_mem : (s.setA v).mem = s.mem := rfl
@[simp] theorem State.setA_cfg : (s.setA v).cfg = s.cfg := rfl
@[simp] theorem State.setA_flag (f : Flag) : (s.setA v).flag f = s.flag f := rfl
end

section
variable (v : Byte)
@[simp] theorem State.setX_a : (s.setX v).a = s.a := rfl
@[simp] theorem State.setX_x : (s.setX v).x = v := rfl
@[simp] theorem State.setX_y : (s.setX v).y = s.y := rfl
@[simp] theorem State.setX_sp : (s.setX v).sp = s.sp := rfl
@[simp] theorem State.setX_pc : (s.setX v).pc = s.pc := rfl
@[simp] theorem State.setX_p : (s.setX v).p = s.p := rfl
@[simp] theorem State.setX_cyc : (s.setX v).cyc = s.cyc := rfl
@[simp] theorem State.setX_irqReq : (s.setX v).irqReq = s.irqReq := rfl
@[simp] theorem State.setX_nmiReq : (s.setX v).nmiReq = s.nmiReq := rfl
@[simp] theorem State.setX_mem : (s.setX v).mem = s.mem := rfl
@[simp] theorem State.setX_cfg : (s.setX v).cfg = s.cfg := rfl
@[simp] theorem State.setX_flag (f : Flag) : (s.setX v).flag f = s.flag f := rfl
end

section
variable (v : Byte)
@[simp] theorem State.setY_a : (s.setY v).a = s.a := rfl
@[simp] theorem State.setY_x : (s.setY v).x = s.x := rfl
@[simp] theorem State.setY_y : (s.setY v).y = v := rfl
@[simp] theorem State.setY_sp : (s.setY v).sp = s.sp := rfl
@[simp] theorem State.setY_pc : (s.setY v).pc = s.pc := rfl
@[simp] theorem State.setY_p : (s.setY v).p = s.p := rfl
@[simp] theorem State.setY_cyc : (s.setY v).cyc = s.cyc := rfl
@[simp] theorem State.setY_irqReq : (s.setY v).irqReq = s.irqReq := rfl
@[simp] theorem State.setY_nmiReq : (s.setY v).nmiReq = s.nmiReq := rfl
@[simp] theorem State.setY_mem : (s.setY v).mem = s.mem := rfl
@[simp] theorem State.setY_cfg : (s.setY v).cfg = s.cfg := rfl
@[simp] theorem State.setY_flag (f : Flag) : (s.setY v).flag f = s.flag f := rfl
end

section
variable (v : Byte)
@[simp] theorem State.setSp_a : (s.setSp v).a = s.a := rfl
@[simp] theorem State.setSp_x : (s.setSp v).x = s.x := rfl
@[simp] theorem State.setSp_y : (s.setSp v).y = s.y := rfl
@[simp] theorem State.setSp_sp : (s.setSp v).sp = v := rfl
@[simp] theorem State.setSp_pc : (s.setSp v).pc = s.pc := rfl
@[simp] theorem State.setSp_p : (s.setSp v).p = s.p := rfl
@[simp] theorem State.setSp_cyc : (s.setSp v).cyc = s.cyc := rfl
@[simp] theorem State.setSp_irqReq : (s.setSp v).irqReq = s.irqReq := rfl
@[simp] theorem State.setSp_nmiReq : (s.setSp v).nmiReq = s.nmiReq := rfl
@[simp] theorem State.setSp_mem : (s.setSp v).mem = s.mem := rfl
@[simp] theorem State.setSp_cfg : (s.setSp v).cfg = s.cfg := rfl
@[simp] theorem State.setSp_flag (f : Flag) : (s.setSp v).flag f = s.flag f := rfl
end

section
variable (v : Word)
@[simp] theorem State.setPc_a : (s.setPc v).a = s.a := rfl
@[simp] theorem State.setPc_x : (s.setPc v).x = s.x := rfl
@[simp] theorem State.setPc_y : (s.setPc v).y = s.y := rfl
@[simp] theorem State.setPc_sp : (s.setPc v).sp = s.sp := rfl
@[simp] theorem State.setPc_pc : (s.setPc v).pc = v := rfl
@[simp] theorem State.setPc_p : (s.setPc v).p = s.p := rfl
@[simp] theorem State.setPc_cyc : (s.setPc v).cyc = s.cyc := rfl
@[simp] theorem State.setPc_irqReq : (s.setPc v).irqReq = s.irqReq := rfl
@[simp] theorem State.setPc_nmiReq : (s.setPc v).nmiReq = s.nmiReq := rfl
@[simp] theorem State.setPc_mem : (s.setPc v).mem = s.mem := rfl
@[simp] theorem State.setPc_cfg : (s.setPc v).cfg = s.cfg := rfl
@[simp] theorem State.setPc_flag (f : Flag) : (s.setPc v).flag f = s.flag f := rfl
end

section
variable (v : Byte)
@[simp] theorem State.setP_a : (s.setP v).a = s.a := rfl
@[simp] theorem State.setP_x : (s.setP v).x = s.x := rfl
@[simp] theorem State.setP_y : (s.setP v).y = s.y := rfl
@[simp] theorem State.setP_sp : (s.setP v).sp = s.sp := rfl
@[simp] theorem State.setP_pc : (s.setP v).pc = s.pc := rfl
@[simp] theorem State.setP_p : (s.setP v).p = v := rfl
@[simp] theorem State.setP_cyc : (s.setP v).cyc = s.cyc := rfl
@[simp] theorem State.setP_irqReq : (s.setP v).irqReq = s.irqReq := rfl
@[simp] theorem State.setP_nmiReq : (s.setP v).nmiReq = s.nmiReq := rfl
@[simp] theorem State.setP_mem : (s.setP v).mem = s.mem := rfl
@[simp] theorem State.setP_cfg : (s.setP v).cfg = s.cfg := rfl
end

section
variable (v : Nat)
@[simp] theorem State.setCyc_a : (s.setCyc v).a = s.a := rfl
@[simp] theorem State.setCyc_x : (s.setCyc v).x = s.x := rfl
@[simp] theorem State.setCyc_y : (s.setCyc v).y = s.y := rfl
@[simp] theorem State.setCyc_sp : (s.setCyc v).sp = s.sp := rfl
@[simp] theorem State.setCyc_pc : (s.setCyc v).pc = s.pc := rfl
@[simp] theorem State.setCyc_p : (s.setCyc v).p = s.p := rfl
@[simp] theorem State.setCyc_cyc : (s.setCyc v).cyc = v := rfl
@[simp] theorem State.setCyc_irqReq : (s.setCyc v).irqReq = s.irqReq := rfl
@[simp] theorem State.setCyc_nmiReq : (s.setCyc v).nmiReq = s.nmiReq := rfl
@[simp] theorem State.setCyc_mem : (s.setCyc v).mem = s.mem := rfl
@[simp] theorem State.setCyc_cfg : (s.setCyc v).cfg = s.cfg := rfl
@[simp] theorem State.setCyc_flag (f : Flag) : (s.setCyc v).flag f = s.flag f := rfl
end

section
variable (v : Bool)
@[simp] theorem State.setIrqReq_a : (s.setIrqReq v).a = s.a := rfl
@[simp] theorem State.setIrqReq_x : (s.setIrqReq v).x = s.x := rfl
@[simp] theorem State.setIrqReq_y : (s.setIrqReq v).y = s.y := rfl
@[simp] theorem State.setIrqReq_sp : (s.setIrqReq v).sp = s.sp := rfl
@[simp] theorem State.setIrqReq_pc : (s.setIrqReq v).pc = s.pc := rfl
@[simp] theorem State.setIrqReq_p : (s.setIrqReq v).p = s.p := rfl
@[simp] theorem State.setIrqReq_cyc : (s.setIrqReq v).cyc = s.cyc := rfl
@[simp] theorem State.setIrqReq_irqReq : (s.setIrqReq v).irqReq = v := rfl
@[simp] theorem State.setIrqReq_nmiReq : (s.setIrqReq v).nmiReq = s.nmiReq := rfl
@[simp] theorem State.setIrqReq_mem : (s.setIrqReq v).mem = s.mem := rfl
@[simp] theorem State.setIrqReq_cfg : (s.setIrqReq v).cfg = s.cfg := rfl
@[simp] theorem State.setIrqReq_flag (f : Flag) : (s.setIrqReq v).flag f = s.flag f := rfl
end

section
variable (v : Bool)
@[simp] theorem State.setNmiReq_a : (s.setNmiReq v).a = s.a := rfl
@[simp] theorem State.setNmiReq_x : (s.setNmiReq v).x = s.x := rfl
@[simp] theorem State.setNmiReq_y : (s.setNmiReq v).y = s.y := rfl
@[simp] theorem State.setNmiReq_sp : (s.setNmiReq v).sp = s.sp := rfl
@[simp] theorem State.setNmiReq_pc : (s.setNmiReq v).pc = s.pc := rfl
@[simp] theorem State.setNmiReq_p : (s.setNmiReq v).p = s.p := rfl
@[simp] theorem State.setNmiReq_cyc : (s.setNmiReq v).cyc = s.cyc := rfl
@[simp] theorem State.setNmiReq_irqReq : (s.setNmiReq v).irqReq = s.irqReq := rfl
@[simp] theorem State.setNmiReq_nmiReq : (s.setNmiReq v).nmiReq = v := rfl
@[simp] theorem State.setNmiReq_mem : (s.setNmiReq v).mem = s.mem := rfl
@[simp] theorem State.setNmiReq_cfg : (s.setNmiReq v).cfg = s.cfg := rfl
@[simp] theorem State.setNmiReq_flag (f : Flag) : (s.setNmiReq v).flag f = s.flag f := rfl
end

section
variable (v : Memory)
@[simp] theorem State.setMem_a : (s.setMem v).a = s.a := rfl
@[simp] theorem State.setMem_x : (s.setMem v).x = s.x := rfl
@[simp] theorem State.setMem_y : (s.setMem v).y = s.y := rfl
@[simp] theorem State.setMem_sp : (s.setMem v).sp = s.sp := rfl
@[simp] theorem State.setMem_pc : (s.setMem v).pc = s.pc := rfl
@[simp] theorem State.setMem_p : (s.setMem v).p = s.p := rfl
@[simp] theorem State.setMem_cyc : (s.setMem v).cyc = s.cyc := rfl
@[simp] theorem State.setMem_irqReq : (s.setMem v).irqReq = s.irqReq := rfl
@[simp] theorem State.setMem_nmiReq : (s.setMem v).nmiReq = s.nmiReq := rfl
@[simp] theorem State.setMem_mem : (s.setMem v).mem = v := rfl
@[simp] theorem State.setMem_cfg : (s.setMem v).cfg = s.cfg := rfl
@[simp] theorem State.setMem_flag (f : Flag) : (s.setMem v).flag f = s.flag f := rfl
end

end Sys2Proof.Machine
end

