-- ==== Sys2Proof/Laws/Flags.lean ====
section
/-! SUPPORT. What each flag computation does to each flag and field (R16 to R22). -/

namespace Sys2Proof.Machine

/-- Replacing one flag of a status byte leaves the other seven. -/
theorem flagOf_withFlag (p : Byte) (f g : Flag) (b : Bool) :
    flagOf (withFlag p f b) g = if g = f then b else flagOf p g := by
  cases f <;> cases g <;> cases b <;> simp [flagOf, withFlag, Flag.mask, Flag.bit]

/-- Two status bytes with the same eight flags are the same byte. -/
theorem eq_of_flagOf {p q : Byte} (h : ∀ f, flagOf p f = flagOf q f) : p = q := by
  apply BitVec.eq_of_getLsbD_eq
  intro i hi
  have h0 := h .c; have h1 := h .z; have h2 := h .i; have h3 := h .d
  have h4 := h .b; have h5 := h .u; have h6 := h .v; have h7 := h .n
  simp only [flagOf, Flag.bit] at h0 h1 h2 h3 h4 h5 h6 h7
  match i, hi with
  | 0, _ => exact h0
  | 1, _ => exact h1
  | 2, _ => exact h2
  | 3, _ => exact h3
  | 4, _ => exact h4
  | 5, _ => exact h5
  | 6, _ => exact h6
  | 7, _ => exact h7

/-- Bit 7 of a byte says whether it is at least 128. -/
theorem getLsbD_seven (v : Byte) : v.getLsbD 7 = decide (128 ≤ v.toNat) := by
  have h := BitVec.msb_eq_decide v
  rw [BitVec.msb_eq_getLsbD_last] at h
  simpa using h

theorem flagOf_or_unused (p : Byte) (f : Flag) : flagOf (p ||| 0x20) f = (flagOf p f || decide (f = .u)) := by
  cases f <;> simp [flagOf, Flag.bit]

theorem flagOf_or_break_unused (p : Byte) (f : Flag) :
    flagOf (p ||| 0x30) f = (flagOf p f || decide (f = .u) || decide (f = .b)) := by
  cases f <;> simp [flagOf, Flag.bit]

variable (s : State)

@[simp] theorem State.flag_setP (v : Byte) (f : Flag) : (s.setP v).flag f = flagOf v f := rfl

@[simp] theorem State.flag_setFlag (f g : Flag) (b : Bool) :
    (s.setFlag f b).flag g = if g = f then b else s.flag g := flagOf_withFlag s.p f g b

@[simp] theorem State.flag_writeP (v : Byte) (f : Flag) : (s.writeP v).flag f = (flagOf v f || decide (f = .u)) :=
  flagOf_or_unused v f

@[simp] theorem State.flag_setNZ (v : Byte) (f : Flag) :
    (s.setNZ v).flag f = if f = .n then v.getLsbD 7 else if f = .z then v == 0 else s.flag f := by
  simp [State.setNZ]

/-- A write of one flag writes P only. -/
theorem State.setFlag_eq (f : Flag) (b : Bool) : s.setFlag f b = s.setP (withFlag s.p f b) := rfl

/-- `setNZ` writes P only. -/
theorem State.setNZ_eq (v : Byte) : s.setNZ v = s.setP (s.setNZ v).p := rfl

theorem State.accumulate_eq (r : AluResult) : s.accumulate r = (s.setA r.val).setP (s.accumulate r).p := rfl

theorem State.loadA_eq (v : Byte) : s.loadA v = (s.setA v).setP (s.loadA v).p := rfl

theorem State.loadX_eq (v : Byte) : s.loadX v = (s.setX v).setP (s.loadX v).p := rfl

theorem State.loadY_eq (v : Byte) : s.loadY v = (s.setY v).setP (s.loadY v).p := rfl

theorem State.setCompare_eq (r : AluResult) : s.setCompare r = s.setP (s.setCompare r).p := rfl

theorem State.setShift_eq (r : ShiftResult) : s.setShift r = s.setP (s.setShift r).p := rfl

@[simp] theorem State.flag_accumulate (r : AluResult) (f : Flag) :
    (s.accumulate r).flag f =
      if f = .v then r.overflow else if f = .n then r.val.getLsbD 7 else if f = .z then r.val == 0
      else if f = .c then r.carry else s.flag f := by
  simp [State.accumulate]

@[simp] theorem State.flag_loadA (v : Byte) (f : Flag) :
    (s.loadA v).flag f = if f = .n then v.getLsbD 7 else if f = .z then v == 0 else s.flag f := by
  simp [State.loadA]

@[simp] theorem State.flag_loadX (v : Byte) (f : Flag) :
    (s.loadX v).flag f = if f = .n then v.getLsbD 7 else if f = .z then v == 0 else s.flag f := by
  simp [State.loadX]

@[simp] theorem State.flag_loadY (v : Byte) (f : Flag) :
    (s.loadY v).flag f = if f = .n then v.getLsbD 7 else if f = .z then v == 0 else s.flag f := by
  simp [State.loadY]

@[simp] theorem State.flag_setCompare (r : AluResult) (f : Flag) :
    (s.setCompare r).flag f =
      if f = .n then r.val.getLsbD 7 else if f = .z then r.val == 0 else if f = .c then r.carry else s.flag f := by
  simp [State.setCompare]

@[simp] theorem State.flag_setShift (r : ShiftResult) (f : Flag) :
    (s.setShift r).flag f =
      if f = .n then r.val.getLsbD 7 else if f = .z then r.val == 0 else if f = .c then r.carry else s.flag f := by
  simp [State.setShift]

/-! ### Fields under the flag updates -/

section
variable (f : Flag) (b : Bool)
@[simp] theorem State.setFlag_a : (s.setFlag f b).a = s.a := rfl
@[simp] theorem State.setFlag_x : (s.setFlag f b).x = s.x := rfl
@[simp] theorem State.setFlag_y : (s.setFlag f b).y = s.y := rfl
@[simp] theorem State.setFlag_sp : (s.setFlag f b).sp = s.sp := rfl
@[simp] theorem State.setFlag_pc : (s.setFlag f b).pc = s.pc := rfl
@[simp] theorem State.setFlag_cyc : (s.setFlag f b).cyc = s.cyc := rfl
@[simp] theorem State.setFlag_irqReq : (s.setFlag f b).irqReq = s.irqReq := rfl
@[simp] theorem State.setFlag_nmiReq : (s.setFlag f b).nmiReq = s.nmiReq := rfl
@[simp] theorem State.setFlag_mem : (s.setFlag f b).mem = s.mem := rfl
@[simp] theorem State.setFlag_cfg : (s.setFlag f b).cfg = s.cfg := rfl
end

section
variable (v : Byte)
@[simp] theorem State.setNZ_a : (s.setNZ v).a = s.a := rfl
@[simp] theorem State.setNZ_x : (s.setNZ v).x = s.x := rfl
@[simp] theorem State.setNZ_y : (s.setNZ v).y = s.y := rfl
@[simp] theorem State.setNZ_sp : (s.setNZ v).sp = s.sp := rfl
@[simp] theorem State.setNZ_pc : (s.setNZ v).pc = s.pc := rfl
@[simp] theorem State.setNZ_cyc : (s.setNZ v).cyc = s.cyc := rfl
@[simp] theorem State.setNZ_irqReq : (s.setNZ v).irqReq = s.irqReq := rfl
@[simp] theorem State.setNZ_nmiReq : (s.setNZ v).nmiReq = s.nmiReq := rfl
@[simp] theorem State.setNZ_mem : (s.setNZ v).mem = s.mem := rfl
@[simp] theorem State.setNZ_cfg : (s.setNZ v).cfg = s.cfg := rfl
end

section
variable (v : Byte)
@[simp] theorem State.writeP_a : (s.writeP v).a = s.a := rfl
@[simp] theorem State.writeP_x : (s.writeP v).x = s.x := rfl
@[simp] theorem State.writeP_y : (s.writeP v).y = s.y := rfl
@[simp] theorem State.writeP_sp : (s.writeP v).sp = s.sp := rfl
@[simp] theorem State.writeP_pc : (s.writeP v).pc = s.pc := rfl
@[simp] theorem State.writeP_cyc : (s.writeP v).cyc = s.cyc := rfl
@[simp] theorem State.writeP_irqReq : (s.writeP v).irqReq = s.irqReq := rfl
@[simp] theorem State.writeP_nmiReq : (s.writeP v).nmiReq = s.nmiReq := rfl
@[simp] theorem State.writeP_mem : (s.writeP v).mem = s.mem := rfl
@[simp] theorem State.writeP_cfg : (s.writeP v).cfg = s.cfg := rfl
end

section
variable (r : AluResult)
@[simp] theorem State.accumulate_a : (s.accumulate r).a = r.val := rfl
@[simp] theorem State.accumulate_x : (s.accumulate r).x = s.x := rfl
@[simp] theorem State.accumulate_y : (s.accumulate r).y = s.y := rfl
@[simp] theorem State.accumulate_sp : (s.accumulate r).sp = s.sp := rfl
@[simp] theorem State.accumulate_pc : (s.accumulate r).pc = s.pc := rfl
@[simp] theorem State.accumulate_cyc : (s.accumulate r).cyc = s.cyc := rfl
@[simp] theorem State.accumulate_irqReq : (s.accumulate r).irqReq = s.irqReq := rfl
@[simp] theorem State.accumulate_nmiReq : (s.accumulate r).nmiReq = s.nmiReq := rfl
@[simp] theorem State.accumulate_mem : (s.accumulate r).mem = s.mem := rfl
@[simp] theorem State.accumulate_cfg : (s.accumulate r).cfg = s.cfg := rfl
end

section
variable (v : Byte)
@[simp] theorem State.loadA_a : (s.loadA v).a = v := rfl
@[simp] theorem State.loadA_x : (s.loadA v).x = s.x := rfl
@[simp] theorem State.loadA_y : (s.loadA v).y = s.y := rfl
@[simp] theorem State.loadA_sp : (s.loadA v).sp = s.sp := rfl
@[simp] theorem State.loadA_pc : (s.loadA v).pc = s.pc := rfl
@[simp] theorem State.loadA_cyc : (s.loadA v).cyc = s.cyc := rfl
@[simp] theorem State.loadA_irqReq : (s.loadA v).irqReq = s.irqReq := rfl
@[simp] theorem State.loadA_nmiReq : (s.loadA v).nmiReq = s.nmiReq := rfl
@[simp] theorem State.loadA_mem : (s.loadA v).mem = s.mem := rfl
@[simp] theorem State.loadA_cfg : (s.loadA v).cfg = s.cfg := rfl
end

section
variable (v : Byte)
@[simp] theorem State.loadX_a : (s.loadX v).a = s.a := rfl
@[simp] theorem State.loadX_x : (s.loadX v).x = v := rfl
@[simp] theorem State.loadX_y : (s.loadX v).y = s.y := rfl
@[simp] theorem State.loadX_sp : (s.loadX v).sp = s.sp := rfl
@[simp] theorem State.loadX_pc : (s.loadX v).pc = s.pc := rfl
@[simp] theorem State.loadX_cyc : (s.loadX v).cyc = s.cyc := rfl
@[simp] theorem State.loadX_irqReq : (s.loadX v).irqReq = s.irqReq := rfl
@[simp] theorem State.loadX_nmiReq : (s.loadX v).nmiReq = s.nmiReq := rfl
@[simp] theorem State.loadX_mem : (s.loadX v).mem = s.mem := rfl
@[simp] theorem State.loadX_cfg : (s.loadX v).cfg = s.cfg := rfl
end

section
variable (v : Byte)
@[simp] theorem State.loadY_a : (s.loadY v).a = s.a := rfl
@[simp] theorem State.loadY_x : (s.loadY v).x = s.x := rfl
@[simp] theorem State.loadY_y : (s.loadY v).y = v := rfl
@[simp] theorem State.loadY_sp : (s.loadY v).sp = s.sp := rfl
@[simp] theorem State.loadY_pc : (s.loadY v).pc = s.pc := rfl
@[simp] theorem State.loadY_cyc : (s.loadY v).cyc = s.cyc := rfl
@[simp] theorem State.loadY_irqReq : (s.loadY v).irqReq = s.irqReq := rfl
@[simp] theorem State.loadY_nmiReq : (s.loadY v).nmiReq = s.nmiReq := rfl
@[simp] theorem State.loadY_mem : (s.loadY v).mem = s.mem := rfl
@[simp] theorem State.loadY_cfg : (s.loadY v).cfg = s.cfg := rfl
end

section
variable (r : AluResult)
@[simp] theorem State.setCompare_a : (s.setCompare r).a = s.a := rfl
@[simp] theorem State.setCompare_x : (s.setCompare r).x = s.x := rfl
@[simp] theorem State.setCompare_y : (s.setCompare r).y = s.y := rfl
@[simp] theorem State.setCompare_sp : (s.setCompare r).sp = s.sp := rfl
@[simp] theorem State.setCompare_pc : (s.setCompare r).pc = s.pc := rfl
@[simp] theorem State.setCompare_cyc : (s.setCompare r).cyc = s.cyc := rfl
@[simp] theorem State.setCompare_irqReq : (s.setCompare r).irqReq = s.irqReq := rfl
@[simp] theorem State.setCompare_nmiReq : (s.setCompare r).nmiReq = s.nmiReq := rfl
@[simp] theorem State.setCompare_mem : (s.setCompare r).mem = s.mem := rfl
@[simp] theorem State.setCompare_cfg : (s.setCompare r).cfg = s.cfg := rfl
end

section
variable (r : ShiftResult)
@[simp] theorem State.setShift_a : (s.setShift r).a = s.a := rfl
@[simp] theorem State.setShift_x : (s.setShift r).x = s.x := rfl
@[simp] theorem State.setShift_y : (s.setShift r).y = s.y := rfl
@[simp] theorem State.setShift_sp : (s.setShift r).sp = s.sp := rfl
@[simp] theorem State.setShift_pc : (s.setShift r).pc = s.pc := rfl
@[simp] theorem State.setShift_cyc : (s.setShift r).cyc = s.cyc := rfl
@[simp] theorem State.setShift_irqReq : (s.setShift r).irqReq = s.irqReq := rfl
@[simp] theorem State.setShift_nmiReq : (s.setShift r).nmiReq = s.nmiReq := rfl
@[simp] theorem State.setShift_mem : (s.setShift r).mem = s.mem := rfl
@[simp] theorem State.setShift_cfg : (s.setShift r).cfg = s.cfg := rfl
end

end Sys2Proof.Machine
end

