-- ==== Sys2Proof/Laws/Memory.lean ====
section
/-! SUPPORT. The laws of memory: a read after a write, and every memory operation keeps the canonical form (R40, R45). -/

namespace Sys2Proof.Machine

theorem Memory.read_erase (m : Memory) (a b : Nat) :
    Memory.read (Memory.erase m a) b = if b = a then unlistedByte else Memory.read m b := by
  induction m with
  | nil => simp [Memory.erase, Memory.read]
  | cons c rest ih =>
    unfold Memory.erase at ih ⊢
    by_cases hc : c.1 = a
    · rw [List.filter_cons_of_neg (by simp [hc]), ih]
      by_cases hb : b = a
      · simp [hb]
      · simp [Memory.read, hb, hc, Ne.symm hb]
    · rw [List.filter_cons_of_pos (by simp [hc])]
      simp only [Memory.read, ih]
      by_cases h : c.1 = b
      · subst h; simp [hc]
      · simp [h]

theorem Memory.ne_of_mem_erase {m : Memory} {a : Nat} {c : Host.Cell} (h : c ∈ Memory.erase m a) : c.1 ≠ a := by
  simpa using (List.mem_filter.mp h).2

theorem Memory.read_insert {m : Memory} {a : Nat} (h : ∀ c ∈ m, c.1 ≠ a) (v : Byte) (b : Nat) :
    Memory.read (Memory.insert m a v) b = if b = a then v else Memory.read m b := by
  induction m with
  | nil => simp [Memory.insert, Memory.read, eq_comm]
  | cons c rest ih =>
    have hc : c.1 ≠ a := h c (by simp)
    have ih := ih (fun d hd => h d (by simp [hd]))
    by_cases hlt : a < c.1
    · simp [Memory.insert, hlt, Memory.read, eq_comm]
    · simp only [Memory.insert, hlt, if_false, Memory.read, ih]
      by_cases hb : c.1 = b
      · subst hb; simp [hc]
      · simp [hb]

/-- A read after a write: the byte written at its address, every other address as before. -/
theorem Memory.read_write (m : Memory) (a b : Nat) (v : Byte) :
    Memory.read (Memory.write m a v) b = if b = a then v else Memory.read m b := by
  unfold Memory.write
  split
  · rename_i hv
    rw [Memory.read_erase, hv]
  · rw [Memory.read_insert (fun c hc => Memory.ne_of_mem_erase hc), Memory.read_erase]
    by_cases hb : b = a <;> simp [hb]

theorem Memory.wf_erase {m : Memory} (h : Memory.wf m) (a : Nat) : Memory.wf (Memory.erase m a) :=
  ⟨h.1.filter _, fun c hc => h.2 c (List.mem_filter.mp hc).1⟩

theorem Memory.mem_insert {m : Memory} {a : Nat} {v : Byte} {c : Host.Cell} :
    c ∈ Memory.insert m a v ↔ c = (a, v) ∨ c ∈ m := by
  induction m with
  | nil => simp [Memory.insert]
  | cons d rest ih =>
    unfold Memory.insert
    split
    · simp
    · simp only [List.mem_cons, ih]
      tauto

theorem Memory.wf_insert {m : Memory} (h : Memory.wf m) {a : Nat} (ha : a < 65536) (hm : ∀ c ∈ m, c.1 ≠ a)
    {v : Byte} (hv : v ≠ unlistedByte) : Memory.wf (Memory.insert m a v) := by
  refine ⟨?_, fun c hc => ?_⟩
  · obtain ⟨hp, -⟩ := h
    induction m with
    | nil => simp [Memory.insert]
    | cons c rest ih =>
      obtain ⟨hc, hp⟩ := List.pairwise_cons.mp hp
      have hca : c.1 ≠ a := hm c (by simp)
      unfold Memory.insert
      split
      · rename_i hlt
        refine List.pairwise_cons.mpr ⟨fun d hd => ?_, List.pairwise_cons.mpr ⟨hc, hp⟩⟩
        rcases List.mem_cons.mp hd with rfl | hd
        · exact hlt
        · exact lt_trans hlt (hc d hd)
      · rename_i hlt
        refine List.pairwise_cons.mpr ⟨fun d hd => ?_, ih (fun d hd => hm d (by simp [hd])) hp⟩
        rcases Memory.mem_insert.mp hd with rfl | hd
        · exact lt_of_le_of_ne (not_lt.mp hlt) hca
        · exact hc d hd
  · rcases Memory.mem_insert.mp hc with rfl | hc
    · exact ⟨ha, hv⟩
    · exact h.2 c hc

/-- A write keeps the canonical form. -/
theorem Memory.wf_write {m : Memory} (h : Memory.wf m) {a : Nat} (ha : a < 65536) (v : Byte) :
    Memory.wf (Memory.write m a v) := by
  unfold Memory.write
  split
  · exact Memory.wf_erase h a
  · rename_i hv
    exact Memory.wf_insert (Memory.wf_erase h a) ha (fun c hc => Memory.ne_of_mem_erase hc) hv

theorem Memory.wf_nil : Memory.wf [] := by simp [Memory.wf]

end Sys2Proof.Machine
end

