-- ==== Sys2Proof/Laws/Ops.lean ====
section
/-! SUPPORT. One lemma per shared operation, saying everything it does; proofs cite these and do not unfold the
operation. -/

namespace Sys2Proof.Machine

variable (s : State)

/-! ### Words and bytes -/

theorem word_toNat (h l : Byte) : (word h l).toNat = h.toNat * 256 + l.toNat := by
  have hl := l.isLt
  rw [word, BitVec.toNat_append, Nat.shiftLeft_eq, Nat.mul_comm, ← Nat.two_pow_add_eq_or_of_lt hl, Nat.mul_comm]

theorem lo_toNat (w : Word) : (lo w).toNat = w.toNat % 256 := by
  simp [lo, BitVec.extractLsb'_toNat]

theorem hi_toNat (w : Word) : (hi w).toNat = w.toNat / 256 := by
  have := w.isLt
  simp only [hi, BitVec.extractLsb'_toNat, Nat.shiftRight_eq_div_pow]
  omega

@[simp] theorem lo_word (h l : Byte) : lo (word h l) = l := by
  apply BitVec.eq_of_toNat_eq
  rw [lo_toNat, word_toNat]
  have := l.isLt
  omega

@[simp] theorem hi_word (h l : Byte) : hi (word h l) = h := by
  apply BitVec.eq_of_toNat_eq
  rw [hi_toNat, word_toNat]
  have := l.isLt
  omega

@[simp] theorem word_hi_lo (w : Word) : word (hi w) (lo w) = w := by
  apply BitVec.eq_of_toNat_eq
  rw [word_toNat, hi_toNat, lo_toNat]
  omega

/-! ### Memory -/

/-- A read after a write of one byte. -/
theorem State.readByte_writeByte (a b : Word) (v : Byte) :
    (s.writeByte a v).readByte b = if b = a then v else s.readByte b := by
  simp [State.readByte, State.writeByte, Memory.read_write, BitVec.toNat_inj]

/-- A write of a byte writes memory only. -/
theorem State.writeByte_eq (a : Word) (v : Byte) : s.writeByte a v = s.setMem (Memory.write s.mem a.toNat v) := rfl

theorem State.wf_writeByte (h : Memory.wf s.mem) (a : Word) (v : Byte) : Memory.wf (s.writeByte a v).mem :=
  Memory.wf_write h a.isLt v

/-- A read depends on memory only. -/
theorem State.readByte_congr {s t : State} (h : s.mem = t.mem) (a : Word) : s.readByte a = t.readByte a := by
  simp [State.readByte, h]

/-! ### Reads under updates that do not touch memory -/

@[simp] theorem State.readByte_setA (v : Byte) (x : Word) : (s.setA v).readByte x = s.readByte x := rfl
@[simp] theorem State.readByte_setX (v : Byte) (x : Word) : (s.setX v).readByte x = s.readByte x := rfl
@[simp] theorem State.readByte_setY (v : Byte) (x : Word) : (s.setY v).readByte x = s.readByte x := rfl
@[simp] theorem State.readByte_setSp (v : Byte) (x : Word) : (s.setSp v).readByte x = s.readByte x := rfl
@[simp] theorem State.readByte_setPc (v : Word) (x : Word) : (s.setPc v).readByte x = s.readByte x := rfl
@[simp] theorem State.readByte_setP (v : Byte) (x : Word) : (s.setP v).readByte x = s.readByte x := rfl
@[simp] theorem State.readByte_setCyc (v : Nat) (x : Word) : (s.setCyc v).readByte x = s.readByte x := rfl
@[simp] theorem State.readByte_setIrqReq (v : Bool) (x : Word) : (s.setIrqReq v).readByte x = s.readByte x := rfl
@[simp] theorem State.readByte_setNmiReq (v : Bool) (x : Word) : (s.setNmiReq v).readByte x = s.readByte x := rfl
@[simp] theorem State.readByte_setFlag (f : Flag) (v : Bool) (x : Word) : (s.setFlag f v).readByte x = s.readByte x := rfl
@[simp] theorem State.readByte_setNZ (v : Byte) (x : Word) : (s.setNZ v).readByte x = s.readByte x := rfl
@[simp] theorem State.readByte_writeP (v : Byte) (x : Word) : (s.writeP v).readByte x = s.readByte x := rfl
@[simp] theorem State.readByte_setShift (v : ShiftResult) (x : Word) : (s.setShift v).readByte x = s.readByte x := rfl

/-! ### Stack -/

/-- `push8` writes the byte `SP` names and moves SP; nothing else. -/
theorem State.push8_eq (v : Byte) :
    s.push8 v = (s.setMem (Memory.write s.mem (stackAddr s.sp).toNat v)).setSp (s.sp - 1) := rfl

theorem State.readByte_push8 (v : Byte) (b : Word) :
    (s.push8 v).readByte b = if b = stackAddr s.sp then v else s.readByte b :=
  State.readByte_writeByte s _ b v

/-- The stack addresses of distinct stack pointers are distinct. -/
theorem stackAddr_inj {p q : Byte} : stackAddr p = stackAddr q ↔ p = q := by
  constructor
  · intro h
    have := congrArg BitVec.toNat h
    simp only [stackAddr, zext16, BitVec.toNat_add, BitVec.toNat_setWidth] at this
    apply BitVec.eq_of_toNat_eq
    have := p.isLt
    have := q.isLt
    omega
  · rintro rfl; rfl

/-- A pull after a push gives the byte and the stack pointer back. -/
theorem State.pull8_push8 (v : Byte) : (s.push8 v).pull8 = (v, s.writeByte (stackAddr s.sp) v) := by
  have h : (s.push8 v).sp + 1 = s.sp := by simp [State.push8]
  refine Prod.ext ?_ ?_
  · show (s.push8 v).readByte (stackAddr ((s.push8 v).sp + 1)) = v
    rw [h, State.readByte_push8, if_pos rfl]
  · show (s.push8 v).setSp ((s.push8 v).sp + 1) = s.writeByte (stackAddr s.sp) v
    rw [h]
    rfl

/-- A push keeps the canonical form of memory. -/
theorem State.wf_push8 (h : Memory.wf s.mem) (v : Byte) : Memory.wf (s.push8 v).mem :=
  s.wf_writeByte h _ v

theorem State.wf_pushWord (h : Memory.wf s.mem) (w : Word) : Memory.wf (s.pushWord w).mem :=
  State.wf_push8 _ (s.wf_push8 h _) _

/-- A stack address lies in page 0x01. -/
theorem stackAddr_toNat (p : Byte) : (stackAddr p).toNat = 256 + p.toNat := by
  have := p.isLt
  have h : (0x0100 : Word).toNat = 256 := rfl
  simp only [stackAddr, zext16, BitVec.toNat_add, BitVec.toNat_setWidth, h]
  omega

/-- A push changes no byte outside page 0x01. -/
theorem State.readByte_push8_of_page (v : Byte) {b : Word} (h : b.toNat < 256 ∨ 512 ≤ b.toNat) :
    (s.push8 v).readByte b = s.readByte b := by
  rw [State.readByte_push8, if_neg]
  rintro rfl
  have := s.sp.isLt
  rw [stackAddr_toNat] at h
  omega

/-! ### Instruction stream -/

/-- Fetching moves PC only. -/
theorem State.fetchBytes_eq (n : Nat) :
    s.fetchBytes n = ((List.range n).map (fun k => s.readByte (s.pc + BitVec.ofNat 16 k)), s.setPc (s.pc + BitVec.ofNat 16 n)) := by
  induction n generalizing s with
  | zero => simp [State.fetchBytes, State.setPc]
  | succ n ih =>
    simp only [State.fetchBytes, State.fetch8, ih, List.range_succ_eq_map, List.map_cons, List.map_map]
    refine Prod.ext ?_ ?_
    · simp only [List.cons.injEq]
      refine ⟨by simp, List.map_congr_left fun k _ => ?_⟩
      simp only [Function.comp, State.setPc_pc, Nat.succ_eq_add_one]
      rw [show s.pc + BitVec.ofNat 16 (k + 1) = s.pc + 1 + BitVec.ofNat 16 k by
        rw [BitVec.add_assoc]; congr 1; apply BitVec.eq_of_toNat_eq; simp; omega]
      rfl
    · simp only [State.setPc]
      congr 1
      rw [BitVec.add_assoc]; congr 1; apply BitVec.eq_of_toNat_eq; simp; omega

/-! ### Cost -/

/-- Everything `retire` can answer: a next state that differs in `CYC` alone, when the table has the row. -/
theorem retire_eq_next {o : Op} {m : Mode} {cross : Bool} {extra : Nat} {t : State} :
    retire o m cross extra s = .next t ↔
      ∃ b, opcodeOf o m = some b ∧ t = s.setCyc (baseCost s.cfg b + crossCycles s.cfg o m cross + extra) := by
  unfold retire
  cases opcodeOf o m <;> simp [eq_comm]

/-- `retire` stops exactly where the table has no row. -/
theorem retire_of_none {o : Op} {m : Mode} (h : opcodeOf o m = none) (cross : Bool) (extra : Nat) :
    retire o m cross extra s = .fault .invalidOperation := by
  simp [retire, h]

theorem retire_of_some {o : Op} {m : Mode} {b : Byte} (h : opcodeOf o m = some b) (cross : Bool) (extra : Nat) :
    retire o m cross extra s = .next (s.setCyc (baseCost s.cfg b + crossCycles s.cfg o m cross + extra)) := by
  simp [retire, h]

/-! ### Entry and return -/

/-- Everything an entry does: three pushes, I set, PC from the vector. -/
theorem State.enter_eq (vector : Word) :
    s.enter vector =
      { s with
        mem := ((s.pushWord s.pc).push8 (s.p ||| 0x30)).mem
        sp := s.sp - 3
        p := withFlag s.p .i true
        pc := Memory.read16 ((s.pushWord s.pc).push8 (s.p ||| 0x30)).mem vector } := by
  have h : s.sp - 1#8 - 1#8 - 1#8 = s.sp - 3#8 := by
    rw [BitVec.sub_sub, BitVec.sub_sub]
    rfl
  simp [State.enter, State.pushWord, State.push8, State.setFlag, State.setPc, State.setSp, State.setP, State.setMem,
    State.writeByte, State.read16, h]

/-- An entry keeps the canonical form of memory. -/
theorem State.wf_enter (h : Memory.wf s.mem) (vector : Word) : Memory.wf (s.enter vector).mem := by
  have he : (s.enter vector).mem = ((s.pushWord s.pc).push8 (s.p ||| 0x30)).mem := rfl
  rw [he]
  exact State.wf_push8 _ (s.wf_pushWord h _) _

/-- Everything the return does: P and PC from three stack bytes, SP up by 3. -/
theorem State.returnFromEntry_eq :
    s.returnFromEntry =
      { s with
        p := s.readByte (stackAddr (s.sp + 1)) ||| 0x20
        pc := word (s.readByte (stackAddr (s.sp + 1 + 1 + 1))) (s.readByte (stackAddr (s.sp + 1 + 1)))
        sp := s.sp + 1 + 1 + 1 } := rfl

end Sys2Proof.Machine
end

