-- ==== Sys2Proof/Laws/Tick.lean ====
section
/-! SUPPORT. What the boundary procedure, a tick and an event can do, said once (R213, R214, R245; R8). -/

namespace Sys2Proof.Machine

variable (s : State)

/-- Everything `BoundaryIRQ` can do (R214). -/
theorem boundaryIrq_cases :
    (s.irqReq = false ∧ boundaryIrq s = (s, none)) ∨
    (s.irqReq = true ∧ s.flag .i = true ∧ s.cfg.irqMaskedHold = true ∧ boundaryIrq s = (s, none)) ∨
    (s.irqReq = true ∧ s.flag .i = true ∧ s.cfg.irqMaskedHold = false ∧ boundaryIrq s = (s.setIrqReq false, none)) ∨
    (s.irqReq = true ∧ s.flag .i = false ∧
      boundaryIrq s = ((s.setIrqReq false).enter irqVector, some s.cfg.irqCycles)) := by
  cases hr : s.irqReq <;> cases hi : s.flag .i <;> cases hh : s.cfg.irqMaskedHold <;> simp [boundaryIrq, hr, hi, hh]

/-- Everything `Boundary` can do (R213, R219). -/
theorem boundary_cases :
    (s.nmiReq = true ∧ boundary s = ((s.setNmiReq false).enter nmiVector, some s.cfg.nmiCycles)) ∨
    (s.nmiReq = false ∧ boundary s = boundaryIrq s) := by
  cases hn : s.nmiReq <;> simp [boundary, hn]

/-- A tick that begins with `CYC > 0` counts down and does nothing else. -/
theorem step_of_pos (h : s.cyc ≠ 0) : step s = .next (s.setCyc (s.cyc - 1)) := by
  simp [step, tick, h, State.countdown]

/-- A boundary tick that takes an entry. -/
theorem step_of_entry {t : State} {c : Nat} (h : s.cyc = 0) (hb : boundary s = (t, some c)) :
    step s = .next (t.setCyc (c - 1)) := by
  simp only [step, tick, h, if_true, hb, State.countdown, State.setCyc_cyc]
  rfl

/-- A boundary tick that takes no entry fetches and executes. -/
theorem step_of_fetch {t : State} (h : s.cyc = 0) (hb : boundary s = (t, none)) :
    step s = countdownAfter (fetchExecute t) := by
  simp only [step, tick, h, if_true, hb]

/-- The bytes at PC and the state past them. -/
theorem State.fetchInstr_eq :
    s.fetchInstr =
      (s.readByte s.pc ::
        (List.range (opcodeCell (s.readByte s.pc)).2.operandBytes).map
          (fun k => s.readByte (s.pc + 1 + BitVec.ofNat 16 k)),
       s.setPc (s.pc + 1 + BitVec.ofNat 16 (opcodeCell (s.readByte s.pc)).2.operandBytes)) := by
  simp only [State.fetchInstr, State.fetch8, State.fetchBytes_eq]
  rfl

/-- An answer of a countdown is the instruction's answer counted down. -/
theorem countdownAfter_eq_next {r : Host.Outcome State Fault Refusal} {t : State} :
    countdownAfter r = .next t ↔ ∃ u, r = .next u ∧ t = u.countdown := by
  cases r <;> simp [countdownAfter, eq_comm]

/-- A run of two sequences of events is the second after the first. -/
theorem runEvents_append (es fs : List Event) :
    runEvents (es ++ fs) s =
      match runEvents es s with
      | .next t => runEvents fs t
      | .fault r => .fault r
      | .refused r => .refused r := by
  induction es generalizing s with
  | nil => rfl
  | cons e rest ih =>
    simp only [List.cons_append, runEvents]
    cases handle e s with
    | next t => exact ih t
    | fault r => rfl
    | refused r => rfl

/-- An invariant that every event keeps holds along every run. -/
theorem runEvents_induction {P : State → Prop} (hstep : ∀ e s t, P s → handle e s = .next t → P t)
    (es : List Event) {t : State} (h0 : P s) (h : runEvents es s = .next t) : P t := by
  induction es generalizing s with
  | nil => simp only [runEvents, Host.Outcome.next.injEq] at h; exact h ▸ h0
  | cons e rest ih =>
    simp only [runEvents] at h
    cases hh : handle e s with
    | next u => rw [hh] at h; exact ih u (hstep e s u h0 hh) h
    | fault r => rw [hh] at h; exact absurd h (by simp)
    | refused r => rw [hh] at h; exact absurd h (by simp)

end Sys2Proof.Machine
end

