-- ==== Sys2Proof/Laws/Exec.lean ====
section
/-! SUPPORT. Each instruction's answer as one call of `retire`, so that no later proof unfolds `exec` or a meaning; and what
follows for all instructions together. -/

namespace Sys2Proof.Machine

variable (s : State)

theorem exec_adc (o : ReadArg) : exec (.adc o) s = retire .adc o.mode (s.readCrosses o) 0 (s.accumulate (addWithCarry s.a (s.readOperand o) (s.flag .c))) := rfl
theorem exec_sbc (o : ReadArg) : exec (.sbc o) s = retire .sbc o.mode (s.readCrosses o) 0 (s.accumulate (subWithBorrow s.a (s.readOperand o) (s.flag .c))) := rfl
theorem exec_and (o : ReadArg) : exec (.and o) s = retire .and o.mode (s.readCrosses o) 0 (s.loadA (s.a &&& s.readOperand o)) := rfl
theorem exec_ora (o : ReadArg) : exec (.ora o) s = retire .ora o.mode (s.readCrosses o) 0 (s.loadA (s.a ||| s.readOperand o)) := rfl
theorem exec_eor (o : ReadArg) : exec (.eor o) s = retire .eor o.mode (s.readCrosses o) 0 (s.loadA (s.a ^^^ s.readOperand o)) := rfl
theorem exec_bit (o : MemArg) : exec (.bit o) s = retire .bit o.mode (s.crosses o) 0 (((s.setFlag .z (s.a &&& (s.memOperand o) == 0)).setFlag .n ((s.memOperand o).getLsbD 7)).setFlag .v ((s.memOperand o).getLsbD 6)) := rfl
theorem exec_cmp (o : ReadArg) : exec (.cmp o) s = retire .cmp o.mode (s.readCrosses o) 0 (s.setCompare (compareWith s.a (s.readOperand o))) := rfl
theorem exec_cpx (o : ReadArg) : exec (.cpx o) s = retire .cpx o.mode (s.readCrosses o) 0 (s.setCompare (compareWith s.x (s.readOperand o))) := rfl
theorem exec_cpy (o : ReadArg) : exec (.cpy o) s = retire .cpy o.mode (s.readCrosses o) 0 (s.setCompare (compareWith s.y (s.readOperand o))) := rfl
theorem exec_asl (o : ShiftArg) : exec (.asl o) s = retire .asl o.mode (s.shiftCrosses o) 0 ((s.writeBack o (shiftLeft (s.shiftOperand o)).val).setShift (shiftLeft (s.shiftOperand o))) := rfl
theorem exec_lsr (o : ShiftArg) : exec (.lsr o) s = retire .lsr o.mode (s.shiftCrosses o) 0 ((s.writeBack o (shiftRight (s.shiftOperand o)).val).setShift (shiftRight (s.shiftOperand o))) := rfl
theorem exec_rol (o : ShiftArg) : exec (.rol o) s = retire .rol o.mode (s.shiftCrosses o) 0 ((s.writeBack o (rotateLeft (s.shiftOperand o) (s.flag .c)).val).setShift (rotateLeft (s.shiftOperand o) (s.flag .c))) := rfl
theorem exec_ror (o : ShiftArg) : exec (.ror o) s = retire .ror o.mode (s.shiftCrosses o) 0 ((s.writeBack o (rotateRight (s.shiftOperand o) (s.flag .c)).val).setShift (rotateRight (s.shiftOperand o) (s.flag .c))) := rfl
theorem exec_inc (o : MemArg) : exec (.inc o) s = retire .inc o.mode (s.crosses o) 0 ((s.writeByte (s.effAddr o) (s.memOperand o + 1)).setNZ (s.memOperand o + 1)) := rfl
theorem exec_dec (o : MemArg) : exec (.dec o) s = retire .dec o.mode (s.crosses o) 0 ((s.writeByte (s.effAddr o) (s.memOperand o - 1)).setNZ (s.memOperand o - 1)) := rfl
theorem exec_inx : exec .inx s = retire .inx .imp false 0 (s.loadX (s.x + 1)) := rfl
theorem exec_iny : exec .iny s = retire .iny .imp false 0 (s.loadY (s.y + 1)) := rfl
theorem exec_dex : exec .dex s = retire .dex .imp false 0 (s.loadX (s.x - 1)) := rfl
theorem exec_dey : exec .dey s = retire .dey .imp false 0 (s.loadY (s.y - 1)) := rfl
theorem exec_lda (o : ReadArg) : exec (.lda o) s = retire .lda o.mode (s.readCrosses o) 0 (s.loadA (s.readOperand o)) := rfl
theorem exec_ldx (o : ReadArg) : exec (.ldx o) s = retire .ldx o.mode (s.readCrosses o) 0 (s.loadX (s.readOperand o)) := rfl
theorem exec_ldy (o : ReadArg) : exec (.ldy o) s = retire .ldy o.mode (s.readCrosses o) 0 (s.loadY (s.readOperand o)) := rfl
theorem exec_sta (o : MemArg) : exec (.sta o) s = retire .sta o.mode (s.crosses o) 0 (s.writeByte (s.effAddr o) s.a) := rfl
theorem exec_stx (o : MemArg) : exec (.stx o) s = retire .stx o.mode (s.crosses o) 0 (s.writeByte (s.effAddr o) s.x) := rfl
theorem exec_sty (o : MemArg) : exec (.sty o) s = retire .sty o.mode (s.crosses o) 0 (s.writeByte (s.effAddr o) s.y) := rfl
theorem exec_tax : exec .tax s = retire .tax .imp false 0 (s.loadX s.a) := rfl
theorem exec_tay : exec .tay s = retire .tay .imp false 0 (s.loadY s.a) := rfl
theorem exec_txa : exec .txa s = retire .txa .imp false 0 (s.loadA s.x) := rfl
theorem exec_tya : exec .tya s = retire .tya .imp false 0 (s.loadA s.y) := rfl
theorem exec_tsx : exec .tsx s = retire .tsx .imp false 0 (s.loadX s.sp) := rfl
theorem exec_txs : exec .txs s = retire .txs .imp false 0 (s.setSp s.x) := rfl
theorem exec_pha : exec .pha s = retire .pha .imp false 0 (s.push8 s.a) := rfl
theorem exec_php : exec .php s = retire .php .imp false 0 (s.push8 s.readP) := rfl
theorem exec_pla : exec .pla s = retire .pla .imp false 0 (s.pull8.2.loadA s.pull8.1) := rfl
theorem exec_plp : exec .plp s = retire .plp .imp false 0 (s.pull8.2.writeP s.pull8.1) := rfl
theorem exec_clc : exec .clc s = retire .clc .imp false 0 (s.setFlag .c false) := rfl
theorem exec_sec : exec .sec s = retire .sec .imp false 0 (s.setFlag .c true) := rfl
theorem exec_cli : exec .cli s = retire .cli .imp false 0 (s.setFlag .i false) := rfl
theorem exec_sei : exec .sei s = retire .sei .imp false 0 (s.setFlag .i true) := rfl
theorem exec_clv : exec .clv s = retire .clv .imp false 0 (s.setFlag .v false) := rfl
theorem exec_cld : exec .cld s = retire .cld .imp false 0 (s.setFlag .d false) := rfl
theorem exec_sed : exec .sed s = retire .sed .imp false 0 (s.setFlag .d true) := rfl
theorem exec_bcc (off : Byte) : exec (.bcc off) s = branch .bcc (s.flag .c == false) off s := rfl
theorem exec_bcs (off : Byte) : exec (.bcs off) s = branch .bcs (s.flag .c == true) off s := rfl
theorem exec_beq (off : Byte) : exec (.beq off) s = branch .beq (s.flag .z == true) off s := rfl
theorem exec_bne (off : Byte) : exec (.bne off) s = branch .bne (s.flag .z == false) off s := rfl
theorem exec_bmi (off : Byte) : exec (.bmi off) s = branch .bmi (s.flag .n == true) off s := rfl
theorem exec_bpl (off : Byte) : exec (.bpl off) s = branch .bpl (s.flag .n == false) off s := rfl
theorem exec_bvc (off : Byte) : exec (.bvc off) s = branch .bvc (s.flag .v == false) off s := rfl
theorem exec_bvs (off : Byte) : exec (.bvs off) s = branch .bvs (s.flag .v == true) off s := rfl
theorem exec_jmp (o : MemArg) : exec (.jmp o) s = retire .jmp o.mode (s.crosses o) 0 (s.setPc (s.effAddr o)) := rfl
theorem exec_jsr (target : Word) : exec (.jsr target) s = retire .jsr .abs false 0 ((s.pushWord (s.pc - 1)).setPc target) := rfl
theorem exec_rts : exec .rts s = retire .rts .imp false 0 (s.pullWord.2.setPc (s.pullWord.1 + 1)) := rfl
theorem exec_brk : exec .brk s = retire .brk .imp false 0 ((s.setPc (s.pc + BitVec.ofNat 16 s.cfg.brkPad.val)).enter irqVector) := rfl
theorem exec_rti : exec .rti s = retire .rti .imp false 0 s.returnFromEntry := rfl
theorem exec_nop : exec .nop s = retire .nop .imp false 0 s := rfl

theorem exec_unknown (b : Byte) :
    exec (.unknown b) s =
      if unassignedBytes.contains b then .next (s.setCyc (baseCost s.cfg b)) else .fault .invalidOperation := rfl

/-- Everything a branch can do (R180). -/
theorem branch_eq (o : Op) (cond : Bool) (off : Byte) :
    branch o cond off s =
      retire o .rel false (if cond then 1 + (pagesDiffer (s.pc + sext16 off) s.pc).toNat else 0)
        (s.setPc (if cond then s.pc + sext16 off else s.pc)) := by
  cases cond <;> rfl

/-- Every instruction but UNKNOWN ends in one call of `retire` at its own operation and mode. -/
theorem exec_retire (i : Instr) (h : i.op ≠ .unknown) :
    ∃ u cross extra, exec i s = retire i.op i.mode cross extra u := by
  cases i with
  | unknown b => exact absurd rfl h
  | bcc off => exact ⟨_, _, _, (exec_bcc s off).trans (branch_eq ..)⟩
  | bcs off => exact ⟨_, _, _, (exec_bcs s off).trans (branch_eq ..)⟩
  | beq off => exact ⟨_, _, _, (exec_beq s off).trans (branch_eq ..)⟩
  | bne off => exact ⟨_, _, _, (exec_bne s off).trans (branch_eq ..)⟩
  | bmi off => exact ⟨_, _, _, (exec_bmi s off).trans (branch_eq ..)⟩
  | bpl off => exact ⟨_, _, _, (exec_bpl s off).trans (branch_eq ..)⟩
  | bvc off => exact ⟨_, _, _, (exec_bvc s off).trans (branch_eq ..)⟩
  | bvs off => exact ⟨_, _, _, (exec_bvs s off).trans (branch_eq ..)⟩
  | _ => exact ⟨_, _, _, rfl⟩

end Sys2Proof.Machine
end

