-- ==== Sys2Proof/Laws/PerInstr.lean ====
section
/-! SUPPORT. Laws stated for all instructions, one lemma per constructor. EncodedLength: a well-formed instruction encodes
to as many bytes as its mode tag says (R63). -/

namespace Sys2Proof.Laws.EncodedLength

/-- The encoding of a well-formed instruction has the length of its mode (R63). -/
def Statement (i : Instr) : Prop := i.wf = true → (encode i).length = i.mode.length

/-- The operand bytes of a memory operand are as many as its mode consumes. -/
theorem memArg_bytes_length (m : MemArg) : m.bytes.length = m.mode.operandBytes := by
  cases m <;> rfl

theorem readArg_bytes_length (o : ReadArg) : o.bytes.length = o.mode.operandBytes := by
  cases o with
  | imm b => rfl
  | mem m => exact memArg_bytes_length m

theorem shiftArg_bytes_length (o : ShiftArg) : o.bytes.length = o.mode.operandBytes := by
  cases o with
  | acc => rfl
  | mem m => exact memArg_bytes_length m

/-- A row of the table encodes to its opcode and its operand bytes. -/
theorem encode_length {i : Instr} {b : Byte} (h : i.opcode = some b)
    (hb : i.operandBytes.length = i.mode.operandBytes) : (encode i).length = i.mode.length := by
  simp [encode, h, hb, Mode.length]

theorem adc (o : ReadArg) : Statement (.adc o) := fun h =>
  let ⟨_, hb⟩ := opcodeOf_of_contains h
  encode_length hb (readArg_bytes_length o)

theorem sbc (o : ReadArg) : Statement (.sbc o) := fun h =>
  let ⟨_, hb⟩ := opcodeOf_of_contains h
  encode_length hb (readArg_bytes_length o)

theorem and (o : ReadArg) : Statement (.and o) := fun h =>
  let ⟨_, hb⟩ := opcodeOf_of_contains h
  encode_length hb (readArg_bytes_length o)

theorem ora (o : ReadArg) : Statement (.ora o) := fun h =>
  let ⟨_, hb⟩ := opcodeOf_of_contains h
  encode_length hb (readArg_bytes_length o)

theorem eor (o : ReadArg) : Statement (.eor o) := fun h =>
  let ⟨_, hb⟩ := opcodeOf_of_contains h
  encode_length hb (readArg_bytes_length o)

theorem bit (o : MemArg) : Statement (.bit o) := fun h =>
  let ⟨_, hb⟩ := opcodeOf_of_contains h
  encode_length hb (memArg_bytes_length o)

theorem cmp (o : ReadArg) : Statement (.cmp o) := fun h =>
  let ⟨_, hb⟩ := opcodeOf_of_contains h
  encode_length hb (readArg_bytes_length o)

theorem cpx (o : ReadArg) : Statement (.cpx o) := fun h =>
  let ⟨_, hb⟩ := opcodeOf_of_contains h
  encode_length hb (readArg_bytes_length o)

theorem cpy (o : ReadArg) : Statement (.cpy o) := fun h =>
  let ⟨_, hb⟩ := opcodeOf_of_contains h
  encode_length hb (readArg_bytes_length o)

theorem asl (o : ShiftArg) : Statement (.asl o) := fun h =>
  let ⟨_, hb⟩ := opcodeOf_of_contains h
  encode_length hb (shiftArg_bytes_length o)

theorem lsr (o : ShiftArg) : Statement (.lsr o) := fun h =>
  let ⟨_, hb⟩ := opcodeOf_of_contains h
  encode_length hb (shiftArg_bytes_length o)

theorem rol (o : ShiftArg) : Statement (.rol o) := fun h =>
  let ⟨_, hb⟩ := opcodeOf_of_contains h
  encode_length hb (shiftArg_bytes_length o)

theorem ror (o : ShiftArg) : Statement (.ror o) := fun h =>
  let ⟨_, hb⟩ := opcodeOf_of_contains h
  encode_length hb (shiftArg_bytes_length o)

theorem inc (o : MemArg) : Statement (.inc o) := fun h =>
  let ⟨_, hb⟩ := opcodeOf_of_contains h
  encode_length hb (memArg_bytes_length o)

theorem dec (o : MemArg) : Statement (.dec o) := fun h =>
  let ⟨_, hb⟩ := opcodeOf_of_contains h
  encode_length hb (memArg_bytes_length o)

theorem inx : Statement .inx := fun h =>
  let ⟨_, hb⟩ := opcodeOf_of_contains h
  encode_length hb rfl

theorem iny : Statement .iny := fun h =>
  let ⟨_, hb⟩ := opcodeOf_of_contains h
  encode_length hb rfl

theorem dex : Statement .dex := fun h =>
  let ⟨_, hb⟩ := opcodeOf_of_contains h
  encode_length hb rfl

theorem dey : Statement .dey := fun h =>
  let ⟨_, hb⟩ := opcodeOf_of_contains h
  encode_length hb rfl

theorem lda (o : ReadArg) : Statement (.lda o) := fun h =>
  let ⟨_, hb⟩ := opcodeOf_of_contains h
  encode_length hb (readArg_bytes_length o)

theorem ldx (o : ReadArg) : Statement (.ldx o) := fun h =>
  let ⟨_, hb⟩ := opcodeOf_of_contains h
  encode_length hb (readArg_bytes_length o)

theorem ldy (o : ReadArg) : Statement (.ldy o) := fun h =>
  let ⟨_, hb⟩ := opcodeOf_of_contains h
  encode_length hb (readArg_bytes_length o)

theorem sta (o : MemArg) : Statement (.sta o) := fun h =>
  let ⟨_, hb⟩ := opcodeOf_of_contains h
  encode_length hb (memArg_bytes_length o)

theorem stx (o : MemArg) : Statement (.stx o) := fun h =>
  let ⟨_, hb⟩ := opcodeOf_of_contains h
  encode_length hb (memArg_bytes_length o)

theorem sty (o : MemArg) : Statement (.sty o) := fun h =>
  let ⟨_, hb⟩ := opcodeOf_of_contains h
  encode_length hb (memArg_bytes_length o)

theorem tax : Statement .tax := fun h =>
  let ⟨_, hb⟩ := opcodeOf_of_contains h
  encode_length hb rfl

theorem tay : Statement .tay := fun h =>
  let ⟨_, hb⟩ := opcodeOf_of_contains h
  encode_length hb rfl

theorem txa : Statement .txa := fun h =>
  let ⟨_, hb⟩ := opcodeOf_of_contains h
  encode_length hb rfl

theorem tya : Statement .tya := fun h =>
  let ⟨_, hb⟩ := opcodeOf_of_contains h
  encode_length hb rfl

theorem tsx : Statement .tsx := fun h =>
  let ⟨_, hb⟩ := opcodeOf_of_contains h
  encode_length hb rfl

theorem txs : Statement .txs := fun h =>
  let ⟨_, hb⟩ := opcodeOf_of_contains h
  encode_length hb rfl

theorem pha : Statement .pha := fun h =>
  let ⟨_, hb⟩ := opcodeOf_of_contains h
  encode_length hb rfl

theorem php : Statement .php := fun h =>
  let ⟨_, hb⟩ := opcodeOf_of_contains h
  encode_length hb rfl

theorem pla : Statement .pla := fun h =>
  let ⟨_, hb⟩ := opcodeOf_of_contains h
  encode_length hb rfl

theorem plp : Statement .plp := fun h =>
  let ⟨_, hb⟩ := opcodeOf_of_contains h
  encode_length hb rfl

theorem clc : Statement .clc := fun h =>
  let ⟨_, hb⟩ := opcodeOf_of_contains h
  encode_length hb rfl

theorem sec : Statement .sec := fun h =>
  let ⟨_, hb⟩ := opcodeOf_of_contains h
  encode_length hb rfl

theorem cli : Statement .cli := fun h =>
  let ⟨_, hb⟩ := opcodeOf_of_contains h
  encode_length hb rfl

theorem sei : Statement .sei := fun h =>
  let ⟨_, hb⟩ := opcodeOf_of_contains h
  encode_length hb rfl

theorem clv : Statement .clv := fun h =>
  let ⟨_, hb⟩ := opcodeOf_of_contains h
  encode_length hb rfl

theorem cld : Statement .cld := fun h =>
  let ⟨_, hb⟩ := opcodeOf_of_contains h
  encode_length hb rfl

theorem sed : Statement .sed := fun h =>
  let ⟨_, hb⟩ := opcodeOf_of_contains h
  encode_length hb rfl

theorem bcc (off : Byte) : Statement (.bcc off) := fun h =>
  let ⟨_, hb⟩ := opcodeOf_of_contains h
  encode_length hb rfl

theorem bcs (off : Byte) : Statement (.bcs off) := fun h =>
  let ⟨_, hb⟩ := opcodeOf_of_contains h
  encode_length hb rfl

theorem beq (off : Byte) : Statement (.beq off) := fun h =>
  let ⟨_, hb⟩ := opcodeOf_of_contains h
  encode_length hb rfl

theorem bne (off : Byte) : Statement (.bne off) := fun h =>
  let ⟨_, hb⟩ := opcodeOf_of_contains h
  encode_length hb rfl

theorem bmi (off : Byte) : Statement (.bmi off) := fun h =>
  let ⟨_, hb⟩ := opcodeOf_of_contains h
  encode_length hb rfl

theorem bpl (off : Byte) : Statement (.bpl off) := fun h =>
  let ⟨_, hb⟩ := opcodeOf_of_contains h
  encode_length hb rfl

theorem bvc (off : Byte) : Statement (.bvc off) := fun h =>
  let ⟨_, hb⟩ := opcodeOf_of_contains h
  encode_length hb rfl

theorem bvs (off : Byte) : Statement (.bvs off) := fun h =>
  let ⟨_, hb⟩ := opcodeOf_of_contains h
  encode_length hb rfl

theorem jmp (o : MemArg) : Statement (.jmp o) := fun h =>
  let ⟨_, hb⟩ := opcodeOf_of_contains h
  encode_length hb (memArg_bytes_length o)

theorem jsr (target : Word) : Statement (.jsr target) := fun h =>
  let ⟨_, hb⟩ := opcodeOf_of_contains h
  encode_length hb rfl

theorem rts : Statement .rts := fun h =>
  let ⟨_, hb⟩ := opcodeOf_of_contains h
  encode_length hb rfl

theorem brk : Statement .brk := fun h =>
  let ⟨_, hb⟩ := opcodeOf_of_contains h
  encode_length hb rfl

theorem rti : Statement .rti := fun h =>
  let ⟨_, hb⟩ := opcodeOf_of_contains h
  encode_length hb rfl

theorem nop : Statement .nop := fun h =>
  let ⟨_, hb⟩ := opcodeOf_of_contains h
  encode_length hb rfl

theorem unknown (b : Byte) : Statement (.unknown b) := fun _ => rfl

end Sys2Proof.Laws.EncodedLength
end

