-- ==== Sys2Proof/Tests/Slice0.lean ====
section
/-! SUPPORT. The model's own tests: ill-formed terms, words written out from the encodings of spec/30_encoding.md R69, single
steps whose expected results are rows of spec/95_test_vectors.md section 2, and a witness for every statement that has
hypotheses. -/

namespace Sys2Proof.Machine

/-! ### Well-formedness (the check of each operand shape refuses a term) -/

theorem test_wf_read_operand_refuses_ind : (Instr.adc (.mem (.ind 0x1234))).wf = false := by decide
theorem test_wf_read_operand_refuses_zpy : (Instr.lda (.mem (.zpy 0x10))).wf = false := by decide
theorem test_wf_cpx_refuses_indexed : (Instr.cpx (.mem (.zpx 0x10))).wf = false := by decide
theorem test_wf_bit_refuses_indexed : (Instr.bit (.abx 0x1234)).wf = false := by decide
theorem test_wf_store_refuses_ind : (Instr.sta (.ind 0x1234)).wf = false := by decide
theorem test_wf_shift_refuses_izy : (Instr.asl (.mem (.izy 0x10))).wf = false := by decide
theorem test_wf_inc_refuses_izx : (Instr.inc (.izx 0x10)).wf = false := by decide
theorem test_wf_jmp_refuses_zero_page : (Instr.jmp (.zp 0x10)).wf = false := by decide
theorem test_wf_unknown_refuses_assigned_byte : (Instr.unknown 0xA9).wf = false := by decide

/-! ### Decoding, from words numbered as opcode_table.json numbers their bits: the opcode in bits 7..0 -/

/-- Each word, of the given number of bits, decodes to its instruction. -/
def reads (rows : List (Nat × Nat × Instr)) : Bool := rows.all fun r => decodeTableWord r.1 r.2.1 == some r.2.2

theorem test_decode_arithmetic : reads
    [(16, 0b0101000001101001, .adc (.imm 0x50)), (24, 0x1234F9, .sbc (.mem (.aby 0x1234))), (16, 0x1021, .and (.mem (.izx 0x10))),
     (16, 0x1011, .ora (.mem (.izy 0x10))), (16, 0xF055, .eor (.mem (.zpx 0xF0)))] = true := by decide
theorem test_decode_compare : reads
    [(24, 0x12342C, .bit (.abs 0x1234)), (24, 0x1234DD, .cmp (.mem (.abx 0x1234))), (16, 0x06E0, .cpx (.imm 0x06)),
     (16, 0x10C4, .cpy (.mem (.zp 0x10)))] = true := by decide
theorem test_decode_shift : reads
    [(8, 0b00001010, .asl .acc), (16, 0x1046, .lsr (.mem (.zp 0x10))), (24, 0x12343E, .rol (.mem (.abx 0x1234))),
     (16, 0x1076, .ror (.mem (.zpx 0x10)))] = true := by decide
theorem test_decode_increment : reads
    [(24, 0x1234EE, .inc (.abs 0x1234)), (16, 0x10D6, .dec (.zpx 0x10)), (8, 0b11101000, .inx), (8, 0xC8, .iny),
     (8, 0xCA, .dex), (8, 0x88, .dey)] = true := by decide
theorem test_decode_load_store : reads
    [(16, 0b0100010110101001, .lda (.imm 0x45)), (16, 0xFFB6, .ldx (.mem (.zpy 0xFF))), (24, 0x1234BC, .ldy (.mem (.abx 0x1234))),
     (16, 0x1081, .sta (.izx 0x10)), (16, 0xF096, .stx (.zpy 0xF0)), (24, 0x12348C, .sty (.abs 0x1234))] = true := by decide
theorem test_decode_transfer : reads
    [(8, 0b10101010, .tax), (8, 0xA8, .tay), (8, 0x8A, .txa), (8, 0x98, .tya), (8, 0xBA, .tsx), (8, 0x9A, .txs)] = true := by
  decide
theorem test_decode_stack : reads
    [(8, 0b01001000, .pha), (8, 0x08, .php), (8, 0x68, .pla), (8, 0x28, .plp)] = true := by decide
theorem test_decode_flags : reads
    [(8, 0b00011000, .clc), (8, 0x38, .sec), (8, 0x58, .cli), (8, 0x78, .sei), (8, 0xB8, .clv), (8, 0xD8, .cld),
     (8, 0xF8, .sed)] = true := by decide
theorem test_decode_branch : reads
    [(16, 0b0000001010010000, .bcc 0x02), (16, 0xFEB0, .bcs 0xFE), (16, 0x01F0, .beq 0x01), (16, 0xF9D0, .bne 0xF9),
     (16, 0x7F30, .bmi 0x7F), (16, 0x8010, .bpl 0x80), (16, 0x0050, .bvc 0x00), (16, 0x1070, .bvs 0x10)] = true := by
  decide
theorem test_decode_jump : reads
    [(24, 0b100000000000000001001100, .jmp (.abs 0x8000)), (24, 0x02FF6C, .jmp (.ind 0x02FF)), (24, 0x123420, .jsr 0x1234),
     (8, 0x60, .rts)] = true := by decide
theorem test_decode_system : reads
    [(8, 0b00000000, .brk), (8, 0x40, .rti), (8, 0xEA, .nop), (8, 0x02, .unknown 0x02), (8, 0xFF, .unknown 0xFF)] = true := by
  decide

theorem test_decode_rejects_no_bytes : decode [] = .error .noOpcodeByte := rfl
theorem test_decode_rejects_missing_operand : decode [0xAD, 0x34] = .error .missingOperandByte := rfl
theorem test_encode_low_byte_first : encode (.jsr 0x1234) = [0x20, 0x34, 0x12] := by decide
theorem test_encode_nothing_without_row : encode (.sta (.ind 0x1234)) = [] := by decide

/-! ### Single steps (spec/95_test_vectors.md section 2) -/

/-- The start of a row: registers 0, `SP` 0xFF, `P` 0x20, PC 0x0600, a boundary. -/
def base : State := { State.reset with p := 0x20, pc := 0x0600, cyc := 0 }

/-- A start state with an instruction at PC and other bytes of memory. -/
def start (s : State) (bytes : List Byte) (cells : List (Word × Byte)) : State :=
  (cells.foldl (fun t c => t.writeByte c.1 c.2) s).placeBytes s.pc bytes

/-- What a step left: the registers, `CYC` after the countdown, and some bytes of memory. -/
def seen (addrs : List Word) : Host.Outcome State Fault Refusal → Option (HostView × List Byte)
  | .next t => some (t.hostView, addrs.map t.readByte)
  | .fault _ => none
  | .refused _ => none

theorem test_adc_signed_overflow : seen [] (step (start { base with a := 0x50, p := 0x20 } [0x69, 0x50] [])) =
    some (⟨0x0602, 0xFF, 0xA0, 0x00, 0x00, 0xE0, 1⟩, []) := by decide
theorem test_adc_decimal_ignored : seen [] (step (start { base with a := 0x09, p := 0x28 } [0x69, 0x01] [])) =
    some (⟨0x0602, 0xFF, 0x0A, 0x00, 0x00, 0x28, 1⟩, []) := by decide
theorem test_sbc_overflow : seen [] (step (start { base with a := 0x50, p := 0x21 } [0xE9, 0xB0] [])) =
    some (⟨0x0602, 0xFF, 0xA0, 0x00, 0x00, 0xE0, 1⟩, []) := by decide
theorem test_sbc_borrow : seen [] (step (start { base with a := 0x10, p := 0x20 } [0xE9, 0x01] [])) =
    some (⟨0x0602, 0xFF, 0x0E, 0x00, 0x00, 0x21, 1⟩, []) := by decide
theorem test_and_negative : seen [] (step (start { base with a := 0xF0, p := 0x20 } [0x29, 0x8F] [])) =
    some (⟨0x0602, 0xFF, 0x80, 0x00, 0x00, 0xA0, 1⟩, []) := by decide
theorem test_ora_negative : seen [] (step (start { base with a := 0x0F, p := 0x20 } [0x09, 0x80] [])) =
    some (⟨0x0602, 0xFF, 0x8F, 0x00, 0x00, 0xA0, 1⟩, []) := by decide
theorem test_eor_negative : seen [] (step (start { base with a := 0xFF, p := 0x20 } [0x49, 0x0F] [])) =
    some (⟨0x0602, 0xFF, 0xF0, 0x00, 0x00, 0xA0, 1⟩, []) := by decide
theorem test_bit_flags_from_memory : seen [] (step (start { base with a := 0x00, p := 0x20 } [0x24, 0x10] [(0x0010, 0xC0)])) =
    some (⟨0x0602, 0xFF, 0x00, 0x00, 0x00, 0xE2, 2⟩, []) := by decide
theorem test_cmp_less : seen [] (step (start { base with a := 0x00, p := 0x20 } [0xC9, 0x01] [])) =
    some (⟨0x0602, 0xFF, 0x00, 0x00, 0x00, 0xA0, 1⟩, []) := by decide
theorem test_cpx_equal : seen [] (step (start { base with x := 0x33, p := 0x20 } [0xE4, 0x10] [(0x0010, 0x33)])) =
    some (⟨0x0602, 0xFF, 0x00, 0x33, 0x00, 0x23, 2⟩, []) := by decide
theorem test_cpy_carry : seen [] (step (start { base with y := 0xFF, p := 0x20 } [0xC0, 0x00] [])) =
    some (⟨0x0602, 0xFF, 0x00, 0x00, 0xFF, 0xA1, 1⟩, []) := by decide
theorem test_asl_acc : seen [] (step (start { base with a := 0x81, p := 0x20 } [0x0A] [])) =
    some (⟨0x0601, 0xFF, 0x02, 0x00, 0x00, 0x21, 1⟩, []) := by decide
theorem test_asl_memory_crossing : seen [0x0200] (step (start { base with x := 0x01, p := 0x20 } [0x1E, 0xFF, 0x01] [(0x0200, 0xFF)])) =
    some (⟨0x0603, 0xFF, 0x00, 0x01, 0x00, 0xA1, 7⟩, [0xFE]) := by decide
theorem test_lsr_acc : seen [] (step (start { base with a := 0x03, p := 0x20 } [0x4A] [])) =
    some (⟨0x0601, 0xFF, 0x01, 0x00, 0x00, 0x21, 1⟩, []) := by decide
theorem test_lsr_memory : seen [0x0010] (step (start { base with p := 0x20 } [0x46, 0x10] [(0x0010, 0xFE)])) =
    some (⟨0x0602, 0xFF, 0x00, 0x00, 0x00, 0x20, 4⟩, [0x7F]) := by decide
theorem test_rol_acc : seen [] (step (start { base with a := 0x80, p := 0x21 } [0x2A] [])) =
    some (⟨0x0601, 0xFF, 0x01, 0x00, 0x00, 0x21, 1⟩, []) := by decide
theorem test_rol_memory : seen [0x0010] (step (start { base with p := 0x20 } [0x26, 0x10] [(0x0010, 0x80)])) =
    some (⟨0x0602, 0xFF, 0x00, 0x00, 0x00, 0x23, 4⟩, [0x00]) := by decide
theorem test_ror_acc : seen [] (step (start { base with a := 0x02, p := 0x21 } [0x6A] [])) =
    some (⟨0x0601, 0xFF, 0x81, 0x00, 0x00, 0xA0, 1⟩, []) := by decide
theorem test_ror_memory : seen [0x0010] (step (start { base with p := 0x21 } [0x66, 0x10] [(0x0010, 0x00)])) =
    some (⟨0x0602, 0xFF, 0x00, 0x00, 0x00, 0xA0, 4⟩, [0x80]) := by decide
theorem test_inc_wraps : seen [0x0010] (step (start { base with p := 0x21 } [0xE6, 0x10] [(0x0010, 0xFF)])) =
    some (⟨0x0602, 0xFF, 0x00, 0x00, 0x00, 0x23, 4⟩, [0x00]) := by decide
theorem test_dec_indexed : seen [0x1235] (step (start { base with x := 0x01, p := 0x20 } [0xDE, 0x34, 0x12] [(0x1235, 0x80)])) =
    some (⟨0x0603, 0xFF, 0x00, 0x01, 0x00, 0x20, 6⟩, [0x7F]) := by decide
theorem test_inx_wraps : seen [] (step (start { base with x := 0xFF, p := 0x20 } [0xE8] [])) =
    some (⟨0x0601, 0xFF, 0x00, 0x00, 0x00, 0x22, 1⟩, []) := by decide
theorem test_iny_wraps : seen [] (step (start { base with y := 0xFF, p := 0x20 } [0xC8] [])) =
    some (⟨0x0601, 0xFF, 0x00, 0x00, 0x00, 0x22, 1⟩, []) := by decide
theorem test_dex_wraps : seen [] (step (start { base with x := 0x00, p := 0x20 } [0xCA] [])) =
    some (⟨0x0601, 0xFF, 0x00, 0xFF, 0x00, 0xA0, 1⟩, []) := by decide
theorem test_dey_wraps : seen [] (step (start { base with y := 0x00, p := 0x20 } [0x88] [])) =
    some (⟨0x0601, 0xFF, 0x00, 0x00, 0xFF, 0xA0, 1⟩, []) := by decide
theorem test_lda_indirect_x_wraps : seen [] (step (start { base with x := 0x01, p := 0x20 } [0xA1, 0xFE] [(0x0000, 0x12), (0x00FF, 0x34), (0x0100, 0xEE), (0x1234, 0xCD)])) =
    some (⟨0x0602, 0xFF, 0xCD, 0x01, 0x00, 0xA0, 5⟩, []) := by decide
theorem test_lda_absolute_x_wraps : seen [] (step (start { base with x := 0x01, p := 0x20 } [0xBD, 0xFF, 0xFF] [(0x0000, 0x33)])) =
    some (⟨0x0603, 0xFF, 0x33, 0x01, 0x00, 0x20, 4⟩, []) := by decide
theorem test_ldx_zero_page_y_wraps : seen [] (step (start { base with y := 0x01, p := 0x20 } [0xB6, 0xFF] [(0x0000, 0x66), (0x0100, 0xEE)])) =
    some (⟨0x0602, 0xFF, 0x00, 0x66, 0x01, 0x20, 3⟩, []) := by decide
theorem test_ldy_zero_page_x : seen [] (step (start { base with x := 0x02, p := 0x20 } [0xB4, 0x10] [(0x0012, 0x7F)])) =
    some (⟨0x0602, 0xFF, 0x00, 0x02, 0x7F, 0x20, 3⟩, []) := by decide
theorem test_sta_indirect_y : seen [0x0403] (step (start { base with a := 0x99, y := 0x03, p := 0x20 } [0x91, 0x10] [(0x0010, 0x00), (0x0011, 0x04)])) =
    some (⟨0x0602, 0xFF, 0x99, 0x00, 0x03, 0x20, 5⟩, [0x99]) := by decide
theorem test_stx_zero_page_y_wraps : seen [0x0010] (step (start { base with x := 0x08, y := 0x20, p := 0x20 } [0x96, 0xF0] [])) =
    some (⟨0x0602, 0xFF, 0x00, 0x08, 0x20, 0x20, 3⟩, [0x08]) := by decide
theorem test_sty_absolute : seen [0x1234] (step (start { base with y := 0x09, p := 0x20 } [0x8C, 0x34, 0x12] [])) =
    some (⟨0x0603, 0xFF, 0x00, 0x00, 0x09, 0x20, 3⟩, [0x09]) := by decide
theorem test_tax : seen [] (step (start { base with a := 0x80, p := 0x20 } [0xAA] [])) =
    some (⟨0x0601, 0xFF, 0x80, 0x80, 0x00, 0xA0, 1⟩, []) := by decide
theorem test_tay_zero : seen [] (step (start { base with a := 0x00, y := 0x05, p := 0x20 } [0xA8] [])) =
    some (⟨0x0601, 0xFF, 0x00, 0x00, 0x00, 0x22, 1⟩, []) := by decide
theorem test_txa : seen [] (step (start { base with x := 0x7F, p := 0x20 } [0x8A] [])) =
    some (⟨0x0601, 0xFF, 0x7F, 0x7F, 0x00, 0x20, 1⟩, []) := by decide
theorem test_tya : seen [] (step (start { base with y := 0xFF, p := 0x20 } [0x98] [])) =
    some (⟨0x0601, 0xFF, 0xFF, 0x00, 0xFF, 0xA0, 1⟩, []) := by decide
theorem test_tsx_zero : seen [] (step (start { base with x := 0x09, sp := 0x00, p := 0x20 } [0xBA] [])) =
    some (⟨0x0601, 0x00, 0x00, 0x00, 0x00, 0x22, 1⟩, []) := by decide
theorem test_txs_no_flags : seen [] (step (start { base with x := 0x00, sp := 0xFF, p := 0xA0 } [0x9A] [])) =
    some (⟨0x0601, 0x00, 0x00, 0x00, 0x00, 0xA0, 1⟩, []) := by decide
theorem test_pha_sp_wraps : seen [0x0100] (step (start { base with a := 0x42, sp := 0x00, p := 0x20 } [0x48] [])) =
    some (⟨0x0601, 0xFF, 0x42, 0x00, 0x00, 0x20, 2⟩, [0x42]) := by decide
theorem test_php_stored_break : seen [0x01FF] (step (start { base with p := 0xF5 } [0x08] [])) =
    some (⟨0x0601, 0xFE, 0x00, 0x00, 0x00, 0xF5, 2⟩, [0xF5]) := by decide
theorem test_pla_sp_wraps : seen [] (step (start { base with a := 0x11, sp := 0xFF, p := 0x20 } [0x68] [(0x0100, 0x00)])) =
    some (⟨0x0601, 0x00, 0x00, 0x00, 0x00, 0x22, 3⟩, []) := by decide
theorem test_plp_keeps_bit_5 : seen [] (step (start { base with sp := 0xFE, p := 0xFF } [0x28] [(0x01FF, 0x00)])) =
    some (⟨0x0601, 0xFF, 0x00, 0x00, 0x00, 0x20, 3⟩, []) := by decide
theorem test_clc : seen [] (step (start { base with p := 0x25 } [0x18] [])) =
    some (⟨0x0601, 0xFF, 0x00, 0x00, 0x00, 0x24, 1⟩, []) := by decide
theorem test_sec : seen [] (step (start { base with p := 0x24 } [0x38] [])) =
    some (⟨0x0601, 0xFF, 0x00, 0x00, 0x00, 0x25, 1⟩, []) := by decide
theorem test_cli : seen [] (step (start { base with p := 0x24 } [0x58] [])) =
    some (⟨0x0601, 0xFF, 0x00, 0x00, 0x00, 0x20, 1⟩, []) := by decide
theorem test_sei : seen [] (step (start { base with p := 0x20 } [0x78] [])) =
    some (⟨0x0601, 0xFF, 0x00, 0x00, 0x00, 0x24, 1⟩, []) := by decide
theorem test_clv : seen [] (step (start { base with p := 0x64 } [0xB8] [])) =
    some (⟨0x0601, 0xFF, 0x00, 0x00, 0x00, 0x24, 1⟩, []) := by decide
theorem test_cld : seen [] (step (start { base with p := 0x2C } [0xD8] [])) =
    some (⟨0x0601, 0xFF, 0x00, 0x00, 0x00, 0x24, 1⟩, []) := by decide
theorem test_sed : seen [] (step (start { base with p := 0x24 } [0xF8] [])) =
    some (⟨0x0601, 0xFF, 0x00, 0x00, 0x00, 0x2C, 1⟩, []) := by decide
theorem test_bcc_taken : seen [] (step (start { base with p := 0x20 } [0x90, 0x02] [])) =
    some (⟨0x0604, 0xFF, 0x00, 0x00, 0x00, 0x20, 2⟩, []) := by decide
theorem test_bcs_loops : seen [] (step (start { base with p := 0x21 } [0xB0, 0xFE] [])) =
    some (⟨0x0600, 0xFF, 0x00, 0x00, 0x00, 0x21, 2⟩, []) := by decide
theorem test_beq_crossing : seen [] (step (start { base with p := 0x22, pc := 0x06FD } [0xF0, 0x01] [])) =
    some (⟨0x0700, 0xFF, 0x00, 0x00, 0x00, 0x22, 3⟩, []) := by decide
theorem test_bne_wraps : seen [] (step (start { base with p := 0x20, pc := 0xFFFC } [0xD0, 0x10] [])) =
    some (⟨0x000E, 0xFF, 0x00, 0x00, 0x00, 0x20, 3⟩, []) := by decide
theorem test_bmi_forward : seen [] (step (start { base with p := 0xA0 } [0x30, 0x7F] [])) =
    some (⟨0x0681, 0xFF, 0x00, 0x00, 0x00, 0xA0, 2⟩, []) := by decide
theorem test_bpl_back : seen [] (step (start { base with p := 0x20 } [0x10, 0x80] [])) =
    some (⟨0x0582, 0xFF, 0x00, 0x00, 0x00, 0x20, 3⟩, []) := by decide
theorem test_bvc_zero_offset : seen [] (step (start { base with p := 0x20 } [0x50, 0x00] [])) =
    some (⟨0x0602, 0xFF, 0x00, 0x00, 0x00, 0x20, 2⟩, []) := by decide
theorem test_bvs_taken : seen [] (step (start { base with p := 0x60 } [0x70, 0x10] [])) =
    some (⟨0x0612, 0xFF, 0x00, 0x00, 0x00, 0x60, 2⟩, []) := by decide
theorem test_jmp_absolute : seen [] (step (start { base with p := 0x20 } [0x4C, 0x00, 0x80] [])) =
    some (⟨0x8000, 0xFF, 0x00, 0x00, 0x00, 0x20, 2⟩, []) := by decide
theorem test_jmp_indirect_page_wrap : seen [] (step (start { base with p := 0x20 } [0x6C, 0xFF, 0x02] [(0x0200, 0x80), (0x02FF, 0x00), (0x0300, 0x12)])) =
    some (⟨0x8000, 0xFF, 0x00, 0x00, 0x00, 0x20, 4⟩, []) := by decide
theorem test_jsr_sp_wraps : seen [0x0100, 0x01FF] (step (start { base with sp := 0x00, p := 0x20 } [0x20, 0x34, 0x12] [])) =
    some (⟨0x1234, 0xFE, 0x00, 0x00, 0x00, 0x20, 5⟩, [0x06, 0x02]) := by decide
theorem test_rts_wraps : seen [] (step (start { base with sp := 0xFD, p := 0x20 } [0x60] [(0x01FE, 0xFF), (0x01FF, 0xFF)])) =
    some (⟨0x0000, 0xFF, 0x00, 0x00, 0x00, 0x20, 5⟩, []) := by decide
theorem test_brk_sp_wraps : seen [0x0100, 0x0101, 0x01FF] (step (start { base with sp := 0x01, p := 0x20 } [0x00] [(0xFFFE, 0x00), (0xFFFF, 0x90)])) =
    some (⟨0x9000, 0xFE, 0x00, 0x00, 0x00, 0x24, 6⟩, [0x01, 0x06, 0x30]) := by decide
theorem test_brk_pad : seen [0x01FD, 0x01FE, 0x01FF] (step (start { base with p := 0x20, cfg := { defaultConfig with brkPad := 1 } } [0x00] [(0xFFFE, 0x00), (0xFFFF, 0x90)])) =
    some (⟨0x9000, 0xFC, 0x00, 0x00, 0x00, 0x24, 6⟩, [0x30, 0x02, 0x06]) := by decide
theorem test_rti : seen [] (step (start { base with sp := 0xFC, p := 0x24 } [0x40] [(0x01FD, 0x00), (0x01FE, 0x34), (0x01FF, 0x12)])) =
    some (⟨0x1234, 0xFF, 0x00, 0x00, 0x00, 0x20, 5⟩, []) := by decide
theorem test_nop : seen [] (step (start { base with a := 0x12, x := 0x34, y := 0x56, p := 0xE3 } [0xEA] [])) =
    some (⟨0x0601, 0xFF, 0x12, 0x34, 0x56, 0xE3, 1⟩, []) := by decide
theorem test_unknown_one_byte : seen [] (step (start { base with a := 0x12, p := 0x20 } [0xFF, 0xA9, 0x55] [])) =
    some (⟨0x0601, 0xFF, 0x12, 0x00, 0x00, 0x20, 0⟩, []) := by decide

/-- Under `reads_only` a store pays no page-crossing cycle (95 section 2.8: cost 5). -/
theorem test_sta_crossing_reads_only : seen [0x0200] (step (start { base with a := 0x5A, x := 0x01, cfg := { defaultConfig with
    pagePenalty := .readsOnly } } [0x9D, 0xFF, 0x01] [])) = some (⟨0x0603, 0xFF, 0x5A, 0x01, 0x00, 0x20, 4⟩, [0x5A]) := by
  decide

/-! ### Reset, boundary and the first instruction -/

/-- The parameters' defaults at reset (R30, R6): `SP` 0xFF, `P` 0x24, `CYC` 7. -/
theorem test_reset_defaults : State.reset.sp = 0xFF ∧ State.reset.p = 0x24 ∧ State.reset.cyc = 7 := by decide

/-- A word placed with `withFetchWord` is the first instruction after reset. -/
theorem test_first_instruction_after_reset :
    seen [] (step (State.reset.withFetchWord 16 0x45A9)) = some (⟨0x0002, 0xFF, 0x45, 0x00, 0x00, 0x24, 1⟩, []) := by
  decide

/-- The reset vector (R241): bytes 00 06 at 0xFFFC give PC 0x0600. -/
theorem test_reset_vector :
    (State.construct defaultConfig [(0xFFFC, 0x00), (0xFFFD, 0x06)] 1 2 3).pc = 0x0600 := by decide

/-- A masked IRQ is dropped and the instruction runs (R214). -/
theorem test_masked_irq_dropped :
    seen [] (step (start { base with p := 0x24, irqReq := true } [0xE8] [])) =
      some (⟨0x0601, 0xFF, 0x00, 0x01, 0x00, 0x24, 1⟩, []) := by decide

/-- An NMI is taken first, whatever I holds (R213, R217): the pushed status has Break set. -/
theorem test_nmi_entry :
    seen [0x01FF, 0x01FE, 0x01FD] (step (start { base with p := 0x24, nmiReq := true, irqReq := true } [0xE8]
      [(0xFFFA, 0x10), (0xFFFB, 0x07)])) =
      some (⟨0x0710, 0xFC, 0x00, 0x00, 0x00, 0x24, 6⟩, [0x06, 0x00, 0x34]) := by decide

/-- Whether an answer is a next state. -/
def answersNext : Host.Outcome State Fault Refusal → Bool
  | .next _ => true
  | .fault _ => false
  | .refused _ => false

theorem exists_next {o : Host.Outcome State Fault Refusal} (h : answersNext o = true) : ∃ t, o = .next t := by
  cases o with
  | next t => exact ⟨t, rfl⟩
  | fault r => exact absurd h (by simp [answersNext])
  | refused r => exact absurd h (by simp [answersNext])

/-! ### Witnesses: states and operands that meet the hypotheses of the statements together -/

/-- Each term is well formed. -/
def allWf (l : List Instr) : Bool := l.all Instr.wf

/-- A well-formed term of every operation whose statement asks for one, at the first and last form of its operand. -/
theorem witness_wf :
    allWf [.adc (.imm 0), .adc (.mem (.izy 0xFF)), .sbc (.imm 0), .sbc (.mem (.izy 0xFF)), .and (.imm 0), .and (.mem (.izy 0xFF)),
      .ora (.imm 0), .ora (.mem (.izy 0xFF)), .eor (.imm 0), .eor (.mem (.izy 0xFF)), .bit (.zp 0), .bit (.abs 0xFFFF)] = true ∧
    allWf [.cmp (.imm 0), .cmp (.mem (.izy 0xFF)), .cpx (.imm 0), .cpx (.mem (.abs 0xFFFF)), .cpy (.imm 0),
      .cpy (.mem (.abs 0xFFFF)), .asl .acc, .asl (.mem (.abx 0xFFFF)), .lsr .acc, .lsr (.mem (.abx 0xFFFF))] = true ∧
    allWf [.rol .acc, .rol (.mem (.abx 0xFFFF)), .ror .acc, .ror (.mem (.abx 0xFFFF)), .inc (.zp 0), .inc (.abx 0xFFFF),
      .dec (.zp 0), .dec (.abx 0xFFFF), .lda (.imm 0), .lda (.mem (.izy 0xFF)), .ldx (.imm 0), .ldx (.mem (.aby 0xFFFF))] = true ∧
    allWf [.ldy (.imm 0), .ldy (.mem (.abx 0xFFFF)), .sta (.zp 0), .sta (.izy 0xFF), .stx (.zp 0), .stx (.abs 0xFFFF), .sty (.zp 0),
      .sty (.abs 0xFFFF), .brk, .unknown 0x02, .unknown 0xFF] = true := by decide

/-- `exec` answers a next state: the hypothesis of the statements about every instruction's flags, state and cost; a branch
taken into another page, and an opcode for it. -/
theorem witness_exec_next :
    (∃ t, exec (.bne 0x80) base = .next t) ∧ (Instr.bne 0x80).opcode = some 0xD0 ∧ branchCycles base (.bne 0x80) = 2 :=
  ⟨exists_next (by decide), by decide, by decide⟩

/-- The hypotheses of AdcOverflowIsSignedOverflow and DecimalFlagDoesNotAlterAdcSbc. -/
theorem witness_adc_sbc_next :
    (∃ t, exec (.adc (.imm 0x50)) base = .next t) ∧ ∃ t, exec (.sbc (.mem (.izy 0xFF))) base = .next t :=
  ⟨exists_next (by decide), exists_next (by decide)⟩

/-- The hypotheses of the cost clause of StoresWriteOneByte: an indexed store that crosses a page. -/
theorem witness_sta_cost :
    (∃ t, exec (.sta (.abx 0x01FF)) { base with x := 1 } = .next t) ∧ opcodeOf .sta (MemArg.abx 0x01FF).mode = some 0x9D ∧
      ({ base with x := 1 } : State).crosses (.abx 0x01FF) = true :=
  ⟨exists_next (by decide), by decide, by decide⟩

/-- An opcode of each mode that `operandIs` speaks of, none of them JSR. -/
theorem witness_operand_modes :
    ([(0xA5, .zp), (0xB5, .zpx), (0xB6, .zpy), (0xAD, .abs), (0xBD, .abx), (0xB9, .aby), (0x6C, .ind), (0xA1, .izx),
      (0xB1, .izy)] : List (Byte × Mode)).all
      (fun r => (opcodeCell r.1).2 == r.2 && (opcodeCell r.1).1 != .jsr) = true := by decide

/-- The two sides of ExecCompletesExactlyOnTableRows. -/
theorem witness_exec_stop : (Instr.sta (.ind 0x1234)).wf = false ∧
    exec (.sta (.ind 0x1234)) base = .fault .invalidOperation := ⟨by decide, rfl⟩

/-- Two different states that differ only in what the cycle counts decide, and a next state from the first. -/
theorem witness_without_timing :
    base ≠ { base with cyc := 9, cfg := { defaultConfig with irqCycles := 1, baseCycles := [] } } ∧
    withoutTiming base = withoutTiming { base with cyc := 9, cfg := { defaultConfig with irqCycles := 1, baseCycles := [] } } ∧
    ∃ t, exec (.lda (.imm 0x45)) base = .next t := by
  refine ⟨fun h => ?_, rfl, exists_next (by decide)⟩
  have := congrArg State.cyc h
  revert this
  decide

/-- The hypotheses of StepRunsDecodedInstruction, with an instruction that wraps past the top of memory. -/
theorem witness_step_runs :
    let s := start { base with pc := 0xFFFE } [0xAD, 0x34, 0x12] []
    let i := Instr.lda (.mem (.abs 0x1234))
    i.wf = true ∧ s.cyc = 0 ∧ s.nmiReq = false ∧ s.irqReq = false ∧ encode i = [0xAD, 0x34, 0x12] ∧
      s.readByte s.pc = 0xAD ∧ s.readByte (s.pc + 1) = 0x34 ∧ s.readByte (s.pc + 2) = 0x12 := by decide

/-- The hypotheses of NopChangesNothing's last clause. -/
theorem witness_nop_step :
    let s := start base [0xEA] []
    s.cyc = 0 ∧ s.nmiReq = false ∧ s.irqReq = false ∧ s.readByte s.pc = 0xEA := by decide

/-- The hypotheses of the countdown and of the four statements about interrupts: one state for each. -/
theorem witness_boundaries :
    0 < State.reset.cyc ∧
    (let s := { base with nmiReq := true }; s.cyc = 0 ∧ s.nmiReq = true) ∧
    (let s := { base with irqReq := true }; s.cyc = 0 ∧ s.nmiReq = false ∧ s.irqReq = true ∧ s.flag .i = false) ∧
    (let s := { base with irqReq := true, p := 0x24 }
     s.cyc = 0 ∧ s.nmiReq = false ∧ s.irqReq = true ∧ s.flag .i = true) := by decide

/-- The invariant holds in a state at a boundary with a byte in memory, and that state takes a step. -/
theorem witness_invariant : (start base [0xEE] []).Inv ∧ ∃ t, step (start base [0xEE] []) = .next t :=
  ⟨⟨by decide, by decide, by decide +kernel⟩, exists_next (by decide)⟩

/-- A run of events of every kind from such a state. -/
theorem witness_events :
    ∃ t, runEvents [.raiseIrq, .tick, .raiseNmi, .hostWrite 0x0601 0x12, .tick, .reset 1 2 3, .tick] (start base [0xEE] []) =
      .next t := exists_next (by decide)

/-- The hypotheses of CycStaysBelowLargestCost, with `CYC` at the bound. -/
theorem witness_cyc_bound :
    let s := { State.reset with cyc := 8 }
    s.cfg.baseCycles = defaultBaseCycles ∧ s.cfg.unknownCycles ≤ 8 ∧
      s.cyc ≤ max (max s.cfg.resetCycles s.cfg.irqCycles) (max s.cfg.nmiCycles 8) ∧ ∃ t, step s = .next t :=
  ⟨rfl, by decide, by decide, exists_next (by decide)⟩

end Sys2Proof.Machine
end

section
/-! Memory (spec/20_memory.md): what a write leaves unchanged, what a constructed machine reads, and the settled
obligation. -/

namespace Sys2Proof.Machine

/-- The reset sequence writes no byte of memory (R241). -/
@[simp] theorem State.resetSequence_mem (s : State) (a x y : Byte) : (s.resetSequence a x y).mem = s.mem := rfl

/-- The memory of a machine just constructed is the one the host bound it to (R240). -/
@[simp] theorem State.construct_mem (cfg : Config) (mem : Memory) (a x y : Byte) :
    (State.construct cfg mem a x y).mem = mem :=
  State.resetSequence_mem _ a x y

/-- The frame of a write: every field but memory is kept (R40). -/
theorem State.writeByte_frame (s : State) (a : Word) (v : Byte) :
    s.writeByte a v = { s with mem := (s.writeByte a v).mem } := by
  rw [State.writeByte_eq, State.setMem_mem]
  rfl

theorem State.readByte_construct (cfg : Config) (mem : Memory) (a x y : Byte) (b : Word) :
    (State.construct cfg mem a x y).readByte b = Memory.read mem b.toNat := by
  rw [State.readByte, State.construct_mem]

/-- Settles O4, from the law of a read after a write, the frame of a write, and the memory of a constructed machine. -/
theorem readReturnsByteLastWritten : Obligations.ReadReturnsByteLastWritten :=
  ⟨fun s a v => ⟨fun b => s.readByte_writeByte a b v, s.writeByte_frame a v⟩, State.readByte_construct⟩

end Sys2Proof.Machine
end

section
/-! The addressing modes (spec/40_addressing_modes.md): the operand bytes of every mode with an effective address, the
addresses and the page-crossing signal in integer terms, and the settled obligations. -/

namespace Sys2Proof.Machine

/-! ### Operand bytes (R63, R64) -/

/-- The mode of an assigned cell of the map is one its operation has (R69, R70). -/
theorem opcodeCell_mode_mem {b : Byte} (h : (opcodeCell b).1 ≠ .unknown) :
    (opcodeCell b).1.modes.contains (opcodeCell b).2 = true := by
  rw [← opcodeOf_isSome, opcodeOf_opcodeCell b h, Option.isSome_some]

theorem readArg_of_memArg {m : Mode} {b1 b2 : Byte} {a : MemArg} (h : memArg m b1 b2 = some a) :
    readArg m b1 b2 = some (.mem a) := by
  have hm : m ≠ .imm := by rintro rfl; cases h
  rw [readArg, if_neg hm, h, Option.map_some]

theorem shiftArg_of_memArg {m : Mode} {b1 b2 : Byte} {a : MemArg} (h : memArg m b1 b2 = some a) :
    shiftArg m b1 b2 = some (.mem a) := by
  have hm : m ≠ .imp := by rintro rfl; cases h
  rw [shiftArg, if_neg hm, h, Option.map_some]

/-- An opcode whose mode has an effective address assembles to an instruction with that operand. JSR is the one operation
at such a mode that takes its operand otherwise; every operation in the last case has mode IMP or REL only. -/
theorem assemble_of_memArg {op b1 b2 : Byte} {a : MemArg} (h : memArg (opcodeCell op).2 b1 b2 = some a)
    (hjsr : (opcodeCell op).1 ≠ .jsr) : ∃ i, assemble op b1 b2 = some i ∧ memArgOf i = some a := by
  have hread := readArg_of_memArg h
  have hshift := shiftArg_of_memArg h
  cases ho : (opcodeCell op).1 with
  | adc | sbc | and | ora | eor | cmp | cpx | cpy | lda | ldx | ldy => simp [assemble, ho, hread, memArgOf]
  | asl | lsr | rol | ror => simp [assemble, ho, hshift, memArgOf]
  | bit | sta | stx | sty | inc | dec | jmp => simp [assemble, ho, h, memArgOf]
  | jsr => exact absurd ho hjsr
  | unknown => simp [mode_of_unknown op ho, memArg] at h
  | invalid => exact absurd ho (opcodeCell_ne_invalid op)
  | _ =>
    have hmode := opcodeCell_mode_mem (b := op) (by simp [ho])
    simp only [ho, Op.modes, List.contains_iff_mem, List.mem_singleton] at hmode
    simp [hmode, memArg] at h

/-- The decoder hands the bytes of a memory operand to operand assembly, which gives the operand back. -/
theorem decode_memArg_bytes {op : Byte} {a : MemArg} (h : (opcodeCell op).2 = a.mode) (rest : List Byte) :
    ∃ b1 b2, memArg a.mode b1 b2 = some a ∧ decode (op :: (a.bytes ++ rest)) = decoded (assemble op b1 b2) rest := by
  cases a with
  | zp b | zpx b | zpy b | izx b | izy b =>
    exact ⟨b, 0, rfl, by simp [decode, h, MemArg.mode, MemArg.bytes, Mode.operandBytes]⟩
  | abs w | abx w | aby w | ind w =>
    exact ⟨lo w, hi w, by simp [memArg, MemArg.mode],
      by simp [decode, h, MemArg.mode, MemArg.bytes, Mode.operandBytes]⟩

/-- Every opcode of a memory operand's mode takes that operand's bytes. -/
theorem operandIs_bytes (a : MemArg) : operandIs a.mode a.bytes a := by
  intro op rest hmode hjsr
  obtain ⟨b1, b2, harg, hdecode⟩ := decode_memArg_bytes hmode rest
  obtain ⟨i, hi, hia⟩ := assemble_of_memArg (hmode ▸ harg) hjsr
  exact ⟨i, by rw [hdecode, hi, decoded], hia⟩

/-! ### Addresses and page crossing (R7, R9, R47) -/

@[simp] theorem zext16_toNat (b : Byte) : (zext16 b).toNat = b.toNat := by
  simp only [zext16, BitVec.toNat_setWidth]
  have := b.isLt
  omega

theorem zext16_eq_ofNat (b : Byte) : zext16 b = BitVec.ofNat 16 b.toNat := by
  rw [← zext16_toNat, BitVec.ofNat_toNat, BitVec.setWidth_eq]

theorem add_zext16_toNat (w : Word) (b : Byte) : (w + zext16 b).toNat = (w.toNat + b.toNat) % 65536 := by
  rw [BitVec.toNat_add, zext16_toNat]

theorem pagesDiffer_iff (a b : Word) : pagesDiffer a b = true ↔ a.toNat / 256 ≠ b.toNat / 256 := by
  rw [pagesDiffer, bne_iff_ne, Ne, ← BitVec.toNat_inj, hi_toNat, hi_toNat]

/-- A zero-page pointer holds a little-endian word, whose high byte's address wraps to 0 after 0xFF (R47). -/
theorem State.read16Zp_toNat (s : State) (p : Byte) :
    (s.read16Zp p).toNat =
      (s.readByte (BitVec.ofNat 16 p.toNat)).toNat +
      256 * (s.readByte (BitVec.ofNat 16 ((p.toNat + 1) % 256))).toNat := by
  have hnext : (p + 1).toNat = (p.toNat + 1) % 256 := BitVec.toNat_add p 1
  rw [State.read16Zp, word_toNat, zext16_eq_ofNat, zext16_eq_ofNat, hnext]
  omega

/-! ### The obligations -/

/-- Settles O5: every opcode of the three modes takes the operand byte, and an 8-bit sum is its own address. -/
theorem zeroPageModesWrapInPageZero : Obligations.ZeroPageModesWrapInPageZero := fun s b =>
  ⟨operandIs_bytes (.zp b), operandIs_bytes (.zpx b), operandIs_bytes (.zpy b), zext16_toNat b,
    (zext16_toNat _).trans (BitVec.toNat_add b s.x), (zext16_toNat _).trans (BitVec.toNat_add b s.y), rfl, rfl, rfl⟩

/-- Settles O7: both modes read their word by `State.read16Zp_toNat`, (zp,X) at the indexed pointer; (zp),Y adds Y to the
word. -/
theorem indirectIndexedModesReadZeroPagePointer : Obligations.IndirectIndexedModesReadZeroPagePointer := by
  intro s b
  have hizx : (s.effAddr (.izx b)).toNat = _ := s.read16Zp_toNat (b + s.x)
  have hizy : (s.effAddr (.izy b)).toNat = _ := add_zext16_toNat (s.read16Zp b) s.y
  have hcross : s.crosses (.izy b) = true ↔ _ := pagesDiffer_iff (s.effAddr (.izy b)) (s.read16Zp b)
  rw [BitVec.toNat_add, Nat.mod_add_mod] at hizx
  rw [s.read16Zp_toNat] at hizy hcross
  exact ⟨operandIs_bytes (.izx b), operandIs_bytes (.izy b), hizx, rfl, hizy, hcross⟩

end Sys2Proof.Machine
end

section
/-! Arithmetic, logic and compare (spec/41_arith_logic.md): the rows of the opcode map, the end of a well-formed
instruction, what each flag computation leaves in integer terms, and the settled obligations. -/

namespace Sys2Proof.Machine

/-! ### The opcode map (R69) and the end of an instruction (R244, R247) -/

/-- The rows of an operation in the encoder's table are its cells of the decoder's map. -/
theorem opcodeCell_eq_iff {o : Op} (ho : o ≠ .unknown) (b : Byte) (m : Mode) :
    opcodeCell b = (o, m) ↔ (m, b) ∈ opcodeRows o := by
  constructor
  · intro h
    have hrow := opcodeOf_opcodeCell b (by simpa [h] using ho)
    rw [h] at hrow
    exact mem_of_lookup_eq_some hrow
  · exact opcodeCell_of_mem_opcodeRows o (m, b)

/-- An Encoding line holds when it lists the rows of the encoder's table, in any order. -/
theorem encodedAs_of_perm {o : Op} {rows : List (Mode × Byte)} (ho : o ≠ .unknown)
    (h : (opcodeRows o).Perm rows) : encodedAs o rows := fun b m =>
  (opcodeCell_eq_iff ho b m).trans h.mem_iff

/-- At a mode its operation has, `retire` answers a next state that differs in `CYC` alone. -/
theorem retire_of_contains {o : Op} {m : Mode} (h : o.modes.contains m = true) (cross : Bool) (extra : Nat)
    (s : State) : ∃ n, retire o m cross extra s = .next (s.setCyc n) := by
  obtain ⟨b, hb⟩ := opcodeOf_of_contains h
  exact ⟨_, retire_of_some s hb cross extra⟩

/-! ### Flags after an instruction -/

theorem nzOf_of_flags {t : State} {v : Byte} (hz : t.flag .z = (v == 0)) (hn : t.flag .n = v.getLsbD 7) :
    nzOf t v :=
  ⟨by rw [hz, beq_iff_eq], hn⟩

section
variable {i : Instr} {s : State} {o : Op} {m : Mode} {cross : Bool} {extra : Nat}

/-- An instruction that ends by loading A has the meaning `loadsA` gives (R20). -/
theorem loadsA_of_retire {v : Byte} (h : exec i s = retire o m cross extra (s.loadA v))
    (hwf : o.modes.contains m = true) : loadsA i s v := by
  obtain ⟨n, hcyc⟩ := retire_of_contains hwf cross extra (s.loadA v)
  refine ⟨_, h.trans hcyc, rfl, nzOf_of_flags (by simp) (by simp), fun f hf => ?_⟩
  simp only [List.mem_cons, not_or] at hf
  simp [hf]

/-- An instruction that ends by setting the flags of a comparison has the meaning `compares` gives: the difference is 0
exactly when the two bytes are equal (R107). -/
theorem compares_of_retire {r v : Byte} (h : exec i s = retire o m cross extra (s.setCompare (compareWith r v)))
    (hwf : o.modes.contains m = true) : compares i s r v := by
  obtain ⟨n, hcyc⟩ := retire_of_contains hwf cross extra (s.setCompare (compareWith r v))
  refine ⟨_, h.trans hcyc, rfl, by simp [compareWith], by simp [compareWith, BitVec.sub_eq_iff_eq_add],
    by simp [compareWith], fun f hf => ?_⟩
  simp only [List.mem_cons, not_or] at hf
  simp [hf]

end

/-! ### The 9-bit sum (R100) -/

section
variable (a m : Byte) (c : Bool)

theorem addWithCarry_val_toNat : (addWithCarry a m c).val.toNat = (a.toNat + m.toNat + c.toNat) % 256 :=
  BitVec.toNat_ofNat _ 8

theorem addWithCarry_carry_iff : (addWithCarry a m c).carry = true ↔ 255 < a.toNat + m.toNat + c.toNat :=
  decide_eq_true_iff

theorem addWithCarry_overflow_iff :
    (addWithCarry a m c).overflow = true ↔
      a.getLsbD 7 = m.getLsbD 7 ∧ (addWithCarry a m c).val.getLsbD 7 ≠ a.getLsbD 7 := by
  rw [addWithCarry, Bool.and_eq_true, beq_iff_eq, bne_iff_ne]

end

/-! ### A flag that an instruction does not read (R102) -/

/-- States that differ at most in P are equal when their flags are. -/
theorem State.eq_of_flags {s t : State} (h : t = s.setP t.p) (hf : ∀ f, t.flag f = s.flag f) : t = s := by
  rw [h, eq_of_flagOf hf]
  rfl

section
variable (s : State) (f : Flag) (b : Bool)

@[simp] theorem State.effAddr_setFlag (m : MemArg) : (s.setFlag f b).effAddr m = s.effAddr m := by
  cases m <;> rfl

@[simp] theorem State.crosses_setFlag (m : MemArg) : (s.setFlag f b).crosses m = s.crosses m := by
  cases m <;> rfl

@[simp] theorem State.readOperand_setFlag (o : ReadArg) : (s.setFlag f b).readOperand o = s.readOperand o := by
  cases o with
  | imm v => rfl
  | mem m => simp [State.readOperand, State.memOperand]

@[simp] theorem State.readCrosses_setFlag (o : ReadArg) : (s.setFlag f b).readCrosses o = s.readCrosses o := by
  cases o with
  | imm v => rfl
  | mem m => exact s.crosses_setFlag f b m

/-- D is none of the flags ADC and SBC write. -/
theorem State.accumulate_setFlag_d (r : AluResult) :
    (s.setFlag .d b).accumulate r = (s.accumulate r).setFlag .d b :=
  State.eq_of_flags rfl fun g => by cases g <;> simp

end

/-- The cost of an instruction does not depend on a flag. -/
theorem retire_setFlag {o : Op} {m : Mode} {cross : Bool} {extra : Nat} {s t : State}
    (h : retire o m cross extra s = .next t) (f : Flag) (b : Bool) :
    retire o m cross extra (s.setFlag f b) = .next (t.setFlag f b) := by
  obtain ⟨opcode, hrow, rfl⟩ := (retire_eq_next s).mp h
  exact retire_of_some _ hrow cross extra

/-! ### The obligations -/

/-- Settles O10: ADC ends in `accumulate` of the 9-bit sum, whose value, carry and overflow the lemmas above give. -/
theorem adcAddsWithCarry : Obligations.AdcAddsWithCarry := by
  refine ⟨encodedAs_of_perm (by decide) (by decide), fun o s hwf => ?_⟩
  obtain ⟨n, hcyc⟩ := retire_of_contains (o := .adc) hwf (s.readCrosses o) 0
    (s.accumulate (addWithCarry s.a (s.readOperand o) (s.flag .c)))
  refine ⟨_, (exec_adc s o).trans hcyc, by rw [State.accumulate_eq]; rfl,
    ⟨addWithCarry_val_toNat .., ?_, nzOf_of_flags (by simp) (by simp), ?_⟩, fun f hf => ?_⟩
  · simpa using addWithCarry_carry_iff ..
  · simpa using addWithCarry_overflow_iff ..
  · simp only [List.mem_cons, not_or] at hf
    simp [hf]

/-- Settles O14: neither the operand nor the sum reads D, `accumulate` does not write it, and the cost does not depend on
it. -/
theorem decimalFlagDoesNotAlterAdcSbc : Obligations.DecimalFlagDoesNotAlterAdcSbc := by
  rintro i (rfl | rfl) o s t d h
  · rw [exec_adc] at h
    simpa [exec_adc, State.accumulate_setFlag_d] using retire_setFlag h .d d
  · rw [exec_sbc] at h
    simpa [exec_sbc, State.accumulate_setFlag_d] using retire_setFlag h .d d

/-- Settles O15: the three operations end by loading A with the combined byte. -/
theorem andOraEorCombineWithAccumulator : Obligations.AndOraEorCombineWithAccumulator :=
  ⟨encodedAs_of_perm (by decide) (by decide), encodedAs_of_perm (by decide) (by decide),
    encodedAs_of_perm (by decide) (by decide), fun o s =>
    ⟨loadsA_of_retire (exec_and s o), loadsA_of_retire (exec_ora s o), loadsA_of_retire (exec_eor s o)⟩⟩

/-- Settles O16: BIT ends in three flag writes. -/
theorem bitTestsMemoryByte : Obligations.BitTestsMemoryByte := by
  refine ⟨encodedAs_of_perm (by decide) (by decide), fun o s hwf => ?_⟩
  obtain ⟨n, hcyc⟩ := retire_of_contains (o := .bit) hwf (s.crosses o) 0 _
  refine ⟨_, (exec_bit s o).trans hcyc, rfl, by simp [State.memOperand], fun f hf => ?_⟩
  simp only [List.mem_cons, not_or] at hf
  simp [hf]

/-- Settles O17: the three operations end by setting the flags of the comparison. -/
theorem compareSetsCarryZeroNegative : Obligations.CompareSetsCarryZeroNegative :=
  ⟨encodedAs_of_perm (by decide) (by decide), encodedAs_of_perm (by decide) (by decide),
    encodedAs_of_perm (by decide) (by decide), fun o s =>
    ⟨compares_of_retire (exec_cmp s o), compares_of_retire (exec_cpx s o), compares_of_retire (exec_cpy s o)⟩⟩

end Sys2Proof.Machine
end

section
/-! Shift, rotate, increment and decrement (spec/42_shift_incdec.md): the flags these instructions leave, what a
read-modify-write of memory, a shift and a load of an index register mean, each shifted or rotated byte in integer terms,
and the settled obligations. -/

namespace Sys2Proof.Machine

/-! ### Flags after an instruction (R20) -/

section
variable {s t : State} {v : Byte}

/-- What `setNZ` leaves in every flag, as the statements say it. -/
theorem nzOf_and_keepsFlags
    (h : ∀ f, t.flag f = if f = .n then v.getLsbD 7 else if f = .z then v == 0 else s.flag f) :
    nzOf t v ∧ keepsFlags s t [.z, .n] := by
  refine ⟨nzOf_of_flags (by simp [h]) (by simp [h]), fun f hf => ?_⟩
  simp only [List.mem_cons, not_or] at hf
  simp [h, hf]

/-- What `setShift` leaves in every flag, as the statements say it. -/
theorem carry_and_nzOf_and_keepsFlags {c : Bool}
    (h : ∀ f, t.flag f =
      if f = .n then v.getLsbD 7 else if f = .z then v == 0 else if f = .c then c else s.flag f) :
    t.flag .c = c ∧ nzOf t v ∧ keepsFlags s t [.c, .z, .n] := by
  refine ⟨by simp [h], nzOf_of_flags (by simp [h]) (by simp [h]), fun f hf => ?_⟩
  simp only [List.mem_cons, not_or] at hf
  simp [h, hf]

end

/-! ### What an instruction means by the state it retires -/

section
variable {i : Instr} {s : State} {o : Op} {m : Mode} {cross : Bool} {extra : Nat} {v : Byte}

/-- An instruction that ends by loading X has the meaning `loadsX` gives. -/
theorem loadsX_of_retire (h : exec i s = retire o m cross extra (s.loadX v))
    (hwf : o.modes.contains m = true) : loadsX i s v := by
  obtain ⟨n, hcyc⟩ := retire_of_contains hwf cross extra (s.loadX v)
  exact ⟨_, h.trans hcyc, rfl, nzOf_and_keepsFlags (s.flag_loadX v)⟩

/-- An instruction that ends by loading Y has the meaning `loadsY` gives. -/
theorem loadsY_of_retire (h : exec i s = retire o m cross extra (s.loadY v))
    (hwf : o.modes.contains m = true) : loadsY i s v := by
  obtain ⟨n, hcyc⟩ := retire_of_contains hwf cross extra (s.loadY v)
  exact ⟨_, h.trans hcyc, rfl, nzOf_and_keepsFlags (s.flag_loadY v)⟩

/-- An instruction that ends by writing a byte and setting Z and N from it modifies that byte (R125, R126). -/
theorem modifiesByte_of_retire {a : Word} (h : exec i s = retire o m cross extra ((s.writeByte a v).setNZ v))
    (hwf : o.modes.contains m = true) : modifiesByte i s a v none := by
  obtain ⟨n, hcyc⟩ := retire_of_contains hwf cross extra ((s.writeByte a v).setNZ v)
  obtain ⟨hnz, hkeep⟩ := nzOf_and_keepsFlags ((s.writeByte a v).flag_setNZ v)
  exact ⟨_, h.trans hcyc, rfl, fun b => s.readByte_writeByte a b v, hnz, hkeep⟩

end

/-- A shift or rotate that ends by writing its result back and setting C, Z and N from it has the meaning `shiftsTo` gives,
in the accumulator form and in memory (R124). -/
theorem shiftsTo_of_retire {i : ShiftArg → Instr} {o : ShiftArg} {s : State} {op : Op} {cross : Bool} {extra : Nat}
    {r : ShiftResult} (h : exec (i o) s = retire op o.mode cross extra ((s.writeBack o r.val).setShift r))
    (hwf : op.modes.contains o.mode = true) : shiftsTo i o s r.val r.carry := by
  obtain ⟨n, hcyc⟩ := retire_of_contains hwf cross extra ((s.writeBack o r.val).setShift r)
  have hflags := carry_and_nzOf_and_keepsFlags ((s.writeBack o r.val).flag_setShift r)
  cases o with
  | acc => exact ⟨_, h.trans hcyc, rfl, hflags⟩
  | mem m =>
    obtain ⟨hc, hnz, hkeep⟩ := hflags
    exact ⟨_, h.trans hcyc, rfl, fun b => s.readByte_writeByte (s.effAddr m) b r.val, hnz, hc, hkeep⟩

/-! ### Shifted, rotated and stepped bytes in integer terms (R120 to R130) -/

section
variable (m : Byte) (c : Bool)

/-- The old carry goes into the bit a left shift vacates, so the rotation is a sum. -/
theorem rotateLeft_val : (rotateLeft m c).val = BitVec.ofNat 8 (2 * m.toNat + c.toNat) := by
  have hvacated : 2 * m.toNat + c.toNat = 2 * m.toNat ||| c.toNat :=
    Nat.two_pow_add_eq_or_of_lt (i := 1) c.toNat_lt _
  have hshift : m <<< 1 = BitVec.ofNat 8 (2 * m.toNat) := by
    rw [BitVec.ofNat_mul, BitVec.ofNat_toNat, BitVec.setWidth_eq, BitVec.shiftLeft_eq_mul_twoPow, BitVec.mul_comm]
    rfl
  have hcarry : (BitVec.ofBool c).setWidth 8 = BitVec.ofNat 8 c.toNat := by cases c <;> rfl
  rw [hvacated, BitVec.ofNat_or, rotateLeft, hshift, hcarry]

/-- The old carry goes into the bit a right shift vacates, so the rotation is a sum. -/
theorem rotateRight_val : (rotateRight m c).val = BitVec.ofNat 8 (m.toNat / 2 + 128 * c.toNat) := by
  have hvacated : m.toNat / 2 + 128 * c.toNat = m.toNat / 2 ||| 128 * c.toNat := by
    rw [Nat.add_comm, Nat.or_comm]
    exact Nat.two_pow_add_eq_or_of_lt (i := 7) (Nat.div_lt_of_lt_mul m.isLt) _
  have hshift : m >>> 1 = BitVec.ofNat 8 (m.toNat / 2) := by
    rw [← BitVec.toNat_inj, BitVec.toNat_ushiftRight, BitVec.toNat_ofNat, Nat.shiftRight_eq_div_pow]
    omega
  have hcarry : (BitVec.ofBool c).setWidth 8 <<< 7 = BitVec.ofNat 8 (128 * c.toNat) := by cases c <;> rfl
  rw [hvacated, BitVec.ofNat_or, rotateRight, hshift, hcarry]

/-- A left shift is the rotation of a 0. -/
theorem shiftLeft_val : (shiftLeft m).val = BitVec.ofNat 8 (2 * m.toNat) := by
  simpa [rotateLeft, shiftLeft] using rotateLeft_val m false

/-- A right shift is the rotation of a 0. -/
theorem shiftRight_val : (shiftRight m).val = BitVec.ofNat 8 (m.toNat / 2) := by
  simpa [rotateRight, shiftRight] using rotateRight_val m false

theorem add_one_eq_ofNat : m + 1 = BitVec.ofNat 8 (m.toNat + 1) := by
  rw [BitVec.ofNat_add, BitVec.ofNat_toNat, BitVec.setWidth_eq]
  rfl

/-- Modulo 256, subtracting 1 is adding 255. -/
theorem sub_one_eq_ofNat : m - 1 = BitVec.ofNat 8 (m.toNat + 255) := by
  rw [BitVec.ofNat_add, BitVec.ofNat_toNat, BitVec.setWidth_eq, BitVec.sub_eq_add_neg]
  rfl

end

/-! ### The obligations -/

/-- Settles O18: both shifts write back and set the flags from the doubled or halved byte. -/
theorem aslLsrShiftOperand : Obligations.AslLsrShiftOperand :=
  ⟨encodedAs_of_perm (by decide) (by decide), encodedAs_of_perm (by decide) (by decide), fun o s =>
    ⟨fun hwf => shiftLeft_val (s.shiftOperand o) ▸ shiftsTo_of_retire (exec_asl s o) hwf,
      fun hwf => shiftRight_val (s.shiftOperand o) ▸ shiftsTo_of_retire (exec_lsr s o) hwf⟩⟩

/-- Settles O19: both rotates write back and set the flags from the rotated byte. -/
theorem rolRorRotateThroughCarry : Obligations.RolRorRotateThroughCarry :=
  ⟨encodedAs_of_perm (by decide) (by decide), encodedAs_of_perm (by decide) (by decide), fun o s =>
    ⟨fun hwf => rotateLeft_val (s.shiftOperand o) (s.flag .c) ▸ shiftsTo_of_retire (exec_rol s o) hwf,
      fun hwf => rotateRight_val (s.shiftOperand o) (s.flag .c) ▸ shiftsTo_of_retire (exec_ror s o) hwf⟩⟩

/-- Settles O20: both operations write the stepped byte where they read it. -/
theorem incDecModifyMemoryByte : Obligations.IncDecModifyMemoryByte :=
  ⟨encodedAs_of_perm (by decide) (by decide), encodedAs_of_perm (by decide) (by decide), fun o s =>
    ⟨fun hwf => add_one_eq_ofNat (s.memOperand o) ▸ modifiesByte_of_retire (exec_inc s o) hwf,
      fun hwf => sub_one_eq_ofNat (s.memOperand o) ▸ modifiesByte_of_retire (exec_dec s o) hwf⟩⟩

/-- Settles O21: the four operations end by loading the index register with the stepped byte. -/
theorem indexRegistersStepByOne : Obligations.IndexRegistersStepByOne :=
  ⟨encodedAs_of_perm (by decide) (by decide), encodedAs_of_perm (by decide) (by decide),
    encodedAs_of_perm (by decide) (by decide), encodedAs_of_perm (by decide) (by decide), fun s =>
    ⟨add_one_eq_ofNat s.x ▸ loadsX_of_retire (exec_inx s) rfl,
      add_one_eq_ofNat s.y ▸ loadsY_of_retire (exec_iny s) rfl,
      sub_one_eq_ofNat s.x ▸ loadsX_of_retire (exec_dex s) rfl,
      sub_one_eq_ofNat s.y ▸ loadsY_of_retire (exec_dey s) rfl⟩⟩

end Sys2Proof.Machine
end

section
/-! Load, store and transfer (spec/43_load_store_transfer.md): what an instruction that ends in a store means, the cost of
STA, and the settled obligations. -/

namespace Sys2Proof.Machine

/-- An instruction that ends by writing a byte stores that byte and changes nothing else but `CYC` (R143 to R145). -/
theorem storesByte_of_retire {i : Instr} {s : State} {o : Op} {m : Mode} {cross : Bool} {extra : Nat} {a : Word} {v : Byte}
    (h : exec i s = retire o m cross extra (s.writeByte a v)) (hwf : o.modes.contains m = true) : storesByte i s a v := by
  obtain ⟨n, hcyc⟩ := retire_of_contains hwf cross extra (s.writeByte a v)
  exact ⟨_, h.trans hcyc, rfl, fun b => s.readByte_writeByte a b v⟩

/-- STA is no `+` cell of the opcode map, so a crossing costs it a cycle under `PAGE_PENALTY_MODE = all` alone (R94, R143). -/
theorem crossCycles_sta (c : Config) (m : Mode) (cross : Bool) :
    crossCycles c .sta m cross = if cross = true ∧ c.pagePenalty = .all then 1 else 0 := by
  cases hmode : c.pagePenalty with
  | all => cases cross <;> simp [crossCycles, hmode]
  | readsOnly => simp [crossCycles, hmode, plusCell]

/-- `CYC` after STA is its base cost and the page-crossing cycle (R143, R247). -/
theorem exec_sta_cyc {o : MemArg} {s t : State} {b : Byte} (h : exec (.sta o) s = .next t)
    (hrow : opcodeOf .sta o.mode = some b) :
    t.cyc = baseCost s.cfg b + if s.crosses o = true ∧ s.cfg.pagePenalty = .all then 1 else 0 := by
  rw [exec_sta, retire_of_some _ hrow, crossCycles_sta] at h
  cases h
  rfl

/-! ### The obligations -/

/-- Settles O22: the three operations end by loading their register with the operand byte. -/
theorem loadsSetRegisterAndFlags : Obligations.LoadsSetRegisterAndFlags :=
  ⟨encodedAs_of_perm (by decide) (by decide), encodedAs_of_perm (by decide) (by decide),
    encodedAs_of_perm (by decide) (by decide), fun o s =>
    ⟨loadsA_of_retire (exec_lda s o), loadsX_of_retire (exec_ldx s o), loadsY_of_retire (exec_ldy s o)⟩⟩

/-- Settles O23: the three operations end by writing their register at the effective address. -/
theorem storesWriteOneByte : Obligations.StoresWriteOneByte :=
  ⟨encodedAs_of_perm (by decide) (by decide), encodedAs_of_perm (by decide) (by decide),
    encodedAs_of_perm (by decide) (by decide), fun o s =>
    ⟨storesByte_of_retire (exec_sta s o), storesByte_of_retire (exec_stx s o), storesByte_of_retire (exec_sty s o),
      fun _ _ => exec_sta_cyc⟩⟩

/-- Settles O24: five transfers end by loading the register copied to; TXS ends by replacing SP, with no flag write. -/
theorem transfersCopyRegister : Obligations.TransfersCopyRegister := by
  refine ⟨encodedAs_of_perm (by decide) (by decide), encodedAs_of_perm (by decide) (by decide),
    encodedAs_of_perm (by decide) (by decide), encodedAs_of_perm (by decide) (by decide),
    encodedAs_of_perm (by decide) (by decide), encodedAs_of_perm (by decide) (by decide), fun s =>
    ⟨loadsX_of_retire (exec_tax s) rfl, loadsY_of_retire (exec_tay s) rfl, loadsA_of_retire (exec_txa s) rfl,
      loadsA_of_retire (exec_tya s) rfl, loadsX_of_retire (exec_tsx s) rfl, ?_⟩⟩
  obtain ⟨n, hcyc⟩ := retire_of_contains (o := .txs) (m := .imp) rfl false 0 (s.setSp s.x)
  exact ⟨_, (exec_txs s).trans hcyc, rfl⟩

end Sys2Proof.Machine
end

section
/-! Control transfer (spec/45_control.md): the page-wrapped pointer of JMP indirect in integer terms, what JMP
does in each of its modes, and the settled obligation. -/

namespace Sys2Proof.Machine

/-! ### The page-wrapped pointer (R48) -/

/-- The mask 0xFF00 keeps the page of a word (R9, R48). -/
theorem and_pageMask (w : Word) : w &&& 0xFF00 = word (hi w) 0 :=
  calc w &&& 0xFF00
    _ = word (hi w) (lo w) &&& word (BitVec.allOnes 8) 0 := by rw [word_hi_lo]; rfl
    _ = word (hi w &&& BitVec.allOnes 8) (lo w &&& 0) := BitVec.and_append
    _ = word (hi w) 0 := congrArg₂ word BitVec.and_allOnes BitVec.and_zero

/-- The mask 0x00FF keeps the offset of a word in its page (R48). -/
theorem and_offsetMask (w : Word) : w &&& 0x00FF = word 0 (lo w) :=
  calc w &&& 0x00FF
    _ = word (hi w) (lo w) &&& word 0 (BitVec.allOnes 8) := by rw [word_hi_lo]; rfl
    _ = word (hi w &&& 0) (lo w &&& BitVec.allOnes 8) := BitVec.and_append
    _ = word 0 (lo w) := congrArg₂ word BitVec.and_zero BitVec.and_allOnes

/-- The address of the pointer's high byte: the pointer's page, and the offset after the pointer's own (R48). -/
theorem pageWrap_next (w : Word) : (w &&& 0xFF00) ||| ((w + 1) &&& 0x00FF) = word (hi w) (lo (w + 1)) := by
  rw [and_pageMask, and_offsetMask]
  exact BitVec.or_append.trans (congrArg₂ word BitVec.or_zero BitVec.zero_or)

/-- The pointer of JMP indirect holds a little-endian word, whose high byte's address stays in the pointer's page (R48). -/
theorem State.read16PageWrap_toNat (s : State) (w : Word) :
    (s.read16PageWrap w).toNat = (s.readByte w).toNat +
      256 * (s.readByte (BitVec.ofNat 16 (w.toNat / 256 * 256 + (w.toNat + 1) % 256))).toNat := by
  have hnext : word (hi w) (lo (w + 1)) = BitVec.ofNat 16 (w.toNat / 256 * 256 + (w.toNat + 1) % 256) := by
    have hstep : (w + 1).toNat = (w.toNat + 1) % 65536 := BitVec.toNat_add w 1
    have hlt := w.isLt
    rw [← BitVec.toNat_inj, word_toNat, hi_toNat, lo_toNat, hstep, BitVec.toNat_ofNat]
    omega
  rw [State.read16PageWrap, pageWrap_next, hnext, word_toNat]
  omega

/-! ### The instruction (R69, R189) -/

/-- JMP indirect is the one opcode of mode IND (R69). -/
theorem eq_of_opcodeCell_mode_ind (b : Byte) : (opcodeCell b).2 = .ind → b = 0x6C := by
  revert b
  decide

/-- JMP completes in each of its modes, puts the resolved address into PC and changes nothing else but `CYC` (R189). -/
theorem exec_jmp_eq_next {o : MemArg} (hwf : Op.jmp.modes.contains o.mode = true) (s : State) :
    ∃ t, exec (.jmp o) s = .next t ∧ t = { s with pc := s.effAddr o, cyc := t.cyc } := by
  obtain ⟨n, hcyc⟩ := retire_of_contains hwf (s.crosses o) 0 (s.setPc (s.effAddr o))
  exact ⟨_, (exec_jmp s o).trans hcyc, rfl⟩

/-! ### The obligation -/

/-- Settles O30: JMP puts the resolved address into PC, which in the indirect form is `State.read16PageWrap_toNat`. -/
theorem jmpSetsPcToResolvedAddress : Obligations.JmpSetsPcToResolvedAddress := by
  refine ⟨encodedAs_of_perm (by decide) (by decide), eq_of_opcodeCell_mode_ind, fun w s => ?_⟩
  obtain ⟨t, hexec, ht⟩ := exec_jmp_eq_next (o := .ind w) rfl s
  have hpc : t.pc = s.read16PageWrap w := congrArg State.pc ht
  exact ⟨operandIs_bytes (.abs w), operandIs_bytes (.ind w), rfl, exec_jmp_eq_next (o := .abs w) rfl s,
    t, hexec, hpc ▸ ht, hpc ▸ s.read16PageWrap_toNat w⟩

end Sys2Proof.Machine
end

section
/-! Encoding (spec/30_encoding.md): the decoder as operand assembly over exactly the bytes a mode consumes, assembly and
the encoder as inverses of each other, and the settled obligations. -/

namespace Sys2Proof.Machine

/-! ### The decoder reads exactly the operand bytes of the opcode's mode (R63) -/

theorem mode_operandBytes_le_two (m : Mode) : m.operandBytes ≤ 2 := by
  cases m <;> decide

/-- Operand assembly over a list of operand bytes; a byte the mode does not consume reads as 0. -/
def assembleBytes (op : Byte) (bytes : List Byte) : Option Instr := assemble op (bytes[0]?.getD 0#8) (bytes[1]?.getD 0#8)

/-- The decoder consumes the operand bytes of the opcode's mode and hands them to operand assembly. -/
theorem decode_operandBytes {op : Byte} {bytes : List Byte} (h : bytes.length = (opcodeCell op).2.operandBytes)
    (rest : List Byte) : decode (op :: (bytes ++ rest)) = decoded (assembleBytes op bytes) rest := by
  have hle := mode_operandBytes_le_two (opcodeCell op).2
  match bytes with
  | [] => simp [decode, ← h, assembleBytes]
  | [b1] => simp [decode, ← h, assembleBytes]
  | [b1, b2] => simp [decode, ← h, assembleBytes]
  | _ :: _ :: _ :: _ => simp only [List.length_cons] at h; omega

/-! ### Operand bytes assemble to the operand they were taken from (R64) -/

theorem memArg_bytes (a : MemArg) : memArg a.mode (a.bytes[0]?.getD 0#8) (a.bytes[1]?.getD 0#8) = some a := by
  cases a <;> simp [memArg, MemArg.mode, MemArg.bytes]

theorem readArg_bytes (o : ReadArg) : readArg o.mode (o.bytes[0]?.getD 0#8) (o.bytes[1]?.getD 0#8) = some o := by
  cases o with
  | imm b => rfl
  | mem a => exact readArg_of_memArg (memArg_bytes a)

theorem shiftArg_bytes (o : ShiftArg) : shiftArg o.mode (o.bytes[0]?.getD 0#8) (o.bytes[1]?.getD 0#8) = some o := by
  cases o with
  | acc => rfl
  | mem a => exact shiftArg_of_memArg (memArg_bytes a)

/-- An instruction has as many operand bytes as its mode consumes. -/
theorem operandBytes_length (i : Instr) : i.operandBytes.length = i.mode.operandBytes := by
  cases i with
  | adc o | sbc o | and o | ora o | eor o | cmp o | cpx o | cpy o | lda o | ldx o | ldy o =>
    exact Laws.EncodedLength.readArg_bytes_length o
  | asl o | lsr o | rol o | ror o => exact Laws.EncodedLength.shiftArg_bytes_length o
  | bit o | sta o | stx o | sty o | inc o | dec o | jmp o => exact Laws.EncodedLength.memArg_bytes_length o
  | _ => rfl

/-- At an opcode of its own operation and mode, the operand bytes of an instruction assemble to it. -/
theorem assembleBytes_operandBytes {i : Instr} {op : Byte} (hcell : opcodeCell op = (i.op, i.mode))
    (hunknown : ∀ b, i = .unknown b → b = op) : assembleBytes op i.operandBytes = some i := by
  simp only [assembleBytes, assemble, hcell]
  cases i with
  | adc o | sbc o | and o | ora o | eor o | cmp o | cpx o | cpy o | lda o | ldx o | ldy o =>
    exact congrArg (Option.map _) (readArg_bytes o)
  | asl o | lsr o | rol o | ror o => exact congrArg (Option.map _) (shiftArg_bytes o)
  | bit o | sta o | stx o | sty o | inc o | dec o | jmp o => exact congrArg (Option.map _) (memArg_bytes o)
  | jsr target => exact congrArg (fun w => some (Instr.jsr w)) (word_hi_lo target)
  | unknown b => exact congrArg (fun c => some (Instr.unknown c)) (hunknown b rfl).symm
  | _ => rfl

/-! ### A well-formed instruction has an opcode (R69, R70) -/

/-- A well-formed instruction has an opcode byte, whose cell of the decoder's map is the instruction's own. -/
theorem exists_opcode {i : Instr} (h : i.wf = true) :
    ∃ op, i.opcode = some op ∧ opcodeCell op = (i.op, i.mode) ∧ ∀ b, i = .unknown b → b = op := by
  cases i with
  | unknown b =>
    refine ⟨b, rfl, ?_, fun c hc => (Instr.unknown.inj hc).symm⟩
    exact of_decide_eq_true ((unassigned_iff b).symm.trans h)
  | _ =>
    obtain ⟨op, hop⟩ := opcodeOf_of_contains h
    exact ⟨op, hop, opcodeCell_of_opcodeOf hop, nofun⟩

theorem encode_of_opcode {i : Instr} {op : Byte} (h : i.opcode = some op) : encode i = op :: i.operandBytes := by
  rw [encode, h]

/-! ### Operand assembly is total and drops no byte (R61, R64) -/

section
variable (m : Mode) (b1 b2 : Byte)

theorem memArg_total (himm : m ≠ .imm) (hrel : m ≠ .rel) (himp : m ≠ .imp) :
    ∃ a, memArg m b1 b2 = some a ∧ a.mode = m ∧ a.bytes = [b1, b2].take m.operandBytes := by
  cases m <;> simp_all [memArg, MemArg.mode, MemArg.bytes, Mode.operandBytes]

theorem readArg_total (hrel : m ≠ .rel) (himp : m ≠ .imp) :
    ∃ o, readArg m b1 b2 = some o ∧ o.mode = m ∧ o.bytes = [b1, b2].take m.operandBytes := by
  by_cases himm : m = .imm
  · subst himm
    exact ⟨.imm b1, rfl, rfl, rfl⟩
  · obtain ⟨a, ha, hmode, hbytes⟩ := memArg_total m b1 b2 himm hrel himp
    exact ⟨.mem a, readArg_of_memArg ha, hmode, hbytes⟩

theorem shiftArg_total (himm : m ≠ .imm) (hrel : m ≠ .rel) :
    ∃ o, shiftArg m b1 b2 = some o ∧ o.mode = m ∧ o.bytes = [b1, b2].take m.operandBytes := by
  by_cases himp : m = .imp
  · subst himp
    exact ⟨.acc, rfl, rfl, rfl⟩
  · obtain ⟨a, ha, hmode, hbytes⟩ := memArg_total m b1 b2 himm hrel himp
    exact ⟨.mem a, shiftArg_of_memArg ha, hmode, hbytes⟩

end

/-- Every opcode and two bytes after it assemble to an instruction of the opcode's cell, which keeps the bytes its mode
consumes. -/
theorem assemble_total (op b1 b2 : Byte) :
    ∃ i, assemble op b1 b2 = some i ∧ (i.op, i.mode) = opcodeCell op ∧
      i.operandBytes = [b1, b2].take (opcodeCell op).2.operandBytes ∧ ∀ b, i = .unknown b → b = op := by
  have hmode := opcodeCell_mode_mem (b := op)
  rcases hcell : opcodeCell op with ⟨o, m⟩
  simp only [assemble, hcell] at hmode ⊢
  cases o with
  | adc | sbc | and | ora | eor | cmp | cpx | cpy | lda | ldx | ldy =>
    obtain ⟨a, ha, rfl, hbytes⟩ := readArg_total m b1 b2 (by rintro rfl; simp [Op.modes] at hmode)
      (by rintro rfl; simp [Op.modes] at hmode)
    exact ⟨_, congrArg (Option.map _) ha, rfl, hbytes, nofun⟩
  | asl | lsr | rol | ror =>
    obtain ⟨a, ha, rfl, hbytes⟩ := shiftArg_total m b1 b2 (by rintro rfl; simp [Op.modes] at hmode)
      (by rintro rfl; simp [Op.modes] at hmode)
    exact ⟨_, congrArg (Option.map _) ha, rfl, hbytes, nofun⟩
  | bit | sta | stx | sty | inc | dec | jmp =>
    obtain ⟨a, ha, rfl, hbytes⟩ := memArg_total m b1 b2 (by rintro rfl; simp [Op.modes] at hmode)
      (by rintro rfl; simp [Op.modes] at hmode) (by rintro rfl; simp [Op.modes] at hmode)
    exact ⟨_, congrArg (Option.map _) ha, rfl, hbytes, nofun⟩
  | unknown =>
    obtain rfl : m = .imp := by simpa [hcell] using mode_of_unknown op
    simp [Instr.op, Instr.mode, Instr.operandBytes, Mode.operandBytes]
  | jsr =>
    obtain rfl : m = .abs := by simpa [Op.modes] using hmode
    simp [Instr.op, Instr.mode, Instr.operandBytes, Mode.operandBytes]
  | invalid => exact absurd (by rw [hcell]) (opcodeCell_ne_invalid op)
  | _ =>
    simp only [Op.modes, List.contains_iff_mem, List.mem_singleton] at hmode
    obtain rfl := hmode nofun
    exact ⟨_, rfl, rfl, rfl, nofun⟩

/-- An instruction of an opcode's cell is well formed, and that opcode is its own. -/
theorem wf_and_opcode {i : Instr} {op : Byte} (hcell : (i.op, i.mode) = opcodeCell op)
    (hunknown : ∀ b, i = .unknown b → b = op) : i.wf = true ∧ i.opcode = some op := by
  have hmode := opcodeCell_mode_mem (b := op)
  have hrow := opcodeOf_opcodeCell op
  rw [← hcell] at hmode hrow
  cases i with
  | unknown b =>
    obtain rfl := hunknown b rfl
    exact ⟨(unassigned_iff b).trans (by rw [← hcell]; rfl), rfl⟩
  | _ => exact ⟨hmode nofun, hrow nofun⟩

/-- An opcode with as many bytes as its mode consumes is the encoding of a well-formed instruction, and decodes to it. -/
theorem decode_total {op : Byte} {bytes : List Byte} (h : bytes.length = (opcodeCell op).2.operandBytes) :
    ∃ i, i.wf = true ∧ encode i = op :: bytes ∧ ∀ rest, decode (op :: (bytes ++ rest)) = .ok (i, rest) := by
  obtain ⟨i, hi, hcell, hbytes, hunknown⟩ := assemble_total op (bytes[0]?.getD 0#8) (bytes[1]?.getD 0#8)
  obtain ⟨hwf, hop⟩ := wf_and_opcode hcell hunknown
  have hkeep : [bytes[0]?.getD 0#8, bytes[1]?.getD 0#8].take (opcodeCell op).2.operandBytes = bytes := by
    have hle := mode_operandBytes_le_two (opcodeCell op).2
    rw [← h] at hle ⊢
    match bytes, hle with
    | [], _ => rfl
    | [b1], _ => rfl
    | [b1, b2], _ => rfl
  refine ⟨i, hwf, by rw [encode_of_opcode hop, hbytes, hkeep], fun rest => ?_⟩
  rw [decode_operandBytes h, assembleBytes, hi, decoded]

/-! ### The obligations -/

/-- Settles O1: the encoder writes an opcode of the instruction's own cell and its operand bytes, which assemble to it. -/
theorem decodeOfEncodeIsInstruction : Obligations.DecodeOfEncodeIsInstruction := by
  intro i rest hwf
  obtain ⟨op, hop, hcell, hunknown⟩ := exists_opcode hwf
  have hlen : i.operandBytes.length = (opcodeCell op).2.operandBytes := by rw [hcell, operandBytes_length i]
  rw [encode_of_opcode hop, List.cons_append, decode_operandBytes hlen, assembleBytes_operandBytes hcell hunknown,
    decoded]

/-- Settles O2: the opcode takes the bytes its mode consumes, at most two, and `decode_total` applies to those. -/
theorem everyThreeBytesDecode : Obligations.EveryThreeBytesDecode := by
  intro b0 b1 b2 rest
  let n := (opcodeCell b0).2.operandBytes
  have hlen : ([b1, b2].take n).length = n := by
    rw [List.length_take]
    exact min_eq_left (mode_operandBytes_le_two _)
  obtain ⟨i, hwf, hencode, hdecode⟩ := decode_total hlen
  have hsplit : [b1, b2].take n ++ ([b1, b2].drop n ++ rest) = b1 :: b2 :: rest := by
    rw [← List.append_assoc, List.take_append_drop, List.cons_append, List.cons_append, List.nil_append]
  refine ⟨i, [b1, b2].drop n ++ rest, ?_, hwf, ?_⟩
  · rw [← hsplit, hdecode]
  · rw [hencode, List.cons_append, hsplit]

/-- Settles O3: each word is decoded by evaluation. -/
theorem sampleWordsDecode : Obligations.SampleWordsDecode :=
  ⟨rfl, rfl, rfl, rfl, rfl, rfl, rfl, rfl, rfl⟩

end Sys2Proof.Machine
end

section
/-! Execution: for every instruction at once, what it does to the state, what it costs and when it completes; and the
settled obligations about all instructions. -/

namespace Sys2Proof.Machine

/-! ### A write of a byte writes memory only (R40) -/

section
variable (s : State) (a : Word) (v : Byte)
@[simp] theorem State.writeByte_a : (s.writeByte a v).a = s.a := State.setMem_a s _
@[simp] theorem State.writeByte_x : (s.writeByte a v).x = s.x := State.setMem_x s _
@[simp] theorem State.writeByte_y : (s.writeByte a v).y = s.y := State.setMem_y s _
@[simp] theorem State.writeByte_sp : (s.writeByte a v).sp = s.sp := State.setMem_sp s _
@[simp] theorem State.writeByte_pc : (s.writeByte a v).pc = s.pc := State.setMem_pc s _
@[simp] theorem State.writeByte_p : (s.writeByte a v).p = s.p := State.setMem_p s _
@[simp] theorem State.writeByte_cyc : (s.writeByte a v).cyc = s.cyc := State.setMem_cyc s _
@[simp] theorem State.writeByte_irqReq : (s.writeByte a v).irqReq = s.irqReq := State.setMem_irqReq s _
@[simp] theorem State.writeByte_nmiReq : (s.writeByte a v).nmiReq = s.nmiReq := State.setMem_nmiReq s _
@[simp] theorem State.writeByte_cfg : (s.writeByte a v).cfg = s.cfg := State.setMem_cfg s _
end

/-! ### Effect and cost -/

/-- PC after a branch (R180). -/
def branchTarget (s : State) (taken : Bool) (off : Byte) : Word := if taken then s.pc + sext16 off else s.pc

/-- The state an instruction leaves, before `CYC` is loaded (R100 to R203). -/
def effect (s : State) : Instr → State
  | .adc o => s.accumulate (addWithCarry s.a (s.readOperand o) (s.flag .c))
  | .sbc o => s.accumulate (subWithBorrow s.a (s.readOperand o) (s.flag .c))
  | .and o => s.loadA (s.a &&& s.readOperand o)
  | .ora o => s.loadA (s.a ||| s.readOperand o)
  | .eor o => s.loadA (s.a ^^^ s.readOperand o)
  | .bit m =>
    ((s.setFlag .z (s.a &&& s.memOperand m == 0)).setFlag .n ((s.memOperand m).getLsbD 7)).setFlag .v
      ((s.memOperand m).getLsbD 6)
  | .cmp o => s.setCompare (compareWith s.a (s.readOperand o))
  | .cpx o => s.setCompare (compareWith s.x (s.readOperand o))
  | .cpy o => s.setCompare (compareWith s.y (s.readOperand o))
  | .asl o => (s.writeBack o (shiftLeft (s.shiftOperand o)).val).setShift (shiftLeft (s.shiftOperand o))
  | .lsr o => (s.writeBack o (shiftRight (s.shiftOperand o)).val).setShift (shiftRight (s.shiftOperand o))
  | .rol o =>
    (s.writeBack o (rotateLeft (s.shiftOperand o) (s.flag .c)).val).setShift (rotateLeft (s.shiftOperand o) (s.flag .c))
  | .ror o =>
    (s.writeBack o (rotateRight (s.shiftOperand o) (s.flag .c)).val).setShift
      (rotateRight (s.shiftOperand o) (s.flag .c))
  | .inc m => (s.writeByte (s.effAddr m) (s.memOperand m + 1)).setNZ (s.memOperand m + 1)
  | .dec m => (s.writeByte (s.effAddr m) (s.memOperand m - 1)).setNZ (s.memOperand m - 1)
  | .inx => s.loadX (s.x + 1)
  | .iny => s.loadY (s.y + 1)
  | .dex => s.loadX (s.x - 1)
  | .dey => s.loadY (s.y - 1)
  | .lda o => s.loadA (s.readOperand o)
  | .ldx o => s.loadX (s.readOperand o)
  | .ldy o => s.loadY (s.readOperand o)
  | .sta m => s.writeByte (s.effAddr m) s.a
  | .stx m => s.writeByte (s.effAddr m) s.x
  | .sty m => s.writeByte (s.effAddr m) s.y
  | .tax => s.loadX s.a
  | .tay => s.loadY s.a
  | .txa => s.loadA s.x
  | .tya => s.loadA s.y
  | .tsx => s.loadX s.sp
  | .txs => s.setSp s.x
  | .pha => s.push8 s.a
  | .php => s.push8 s.readP
  | .pla => s.pull8.2.loadA s.pull8.1
  | .plp => s.pull8.2.writeP s.pull8.1
  | .clc => s.setFlag .c false
  | .sec => s.setFlag .c true
  | .cli => s.setFlag .i false
  | .sei => s.setFlag .i true
  | .clv => s.setFlag .v false
  | .cld => s.setFlag .d false
  | .sed => s.setFlag .d true
  | .bcc off => s.setPc (branchTarget s (s.flag .c == false) off)
  | .bcs off => s.setPc (branchTarget s (s.flag .c == true) off)
  | .beq off => s.setPc (branchTarget s (s.flag .z == true) off)
  | .bne off => s.setPc (branchTarget s (s.flag .z == false) off)
  | .bmi off => s.setPc (branchTarget s (s.flag .n == true) off)
  | .bpl off => s.setPc (branchTarget s (s.flag .n == false) off)
  | .bvc off => s.setPc (branchTarget s (s.flag .v == false) off)
  | .bvs off => s.setPc (branchTarget s (s.flag .v == true) off)
  | .jmp m => s.setPc (s.effAddr m)
  | .jsr target => (s.pushWord (s.pc - 1)).setPc target
  | .rts => s.pullWord.2.setPc (s.pullWord.1 + 1)
  | .brk => (s.setPc (s.pc + BitVec.ofNat 16 s.cfg.brkPad.val)).enter irqVector
  | .rti => s.returnFromEntry
  | .nop | .unknown _ => s

/-- The value an instruction loads into `CYC`: base, page crossing and branch cycles (R247). A term with no row has no
opcode and is never asked for its cost. -/
def cost (s : State) (i : Instr) : Nat :=
  baseCost s.cfg (i.opcode.getD 0) + pageCycles s i + branchCycles s i

/-! ### Every instruction ends in its effect and its cost -/

/-- Whether an instruction's operand crosses a page. -/
def crossing (s : State) (i : Instr) : Bool := (memArgOf i).any s.crosses

theorem branchCycles_of_branchOf {s : State} {i : Instr} {taken : Bool} {off : Byte}
    (h : branchOf s i = some (taken, off)) :
    branchCycles s i = if taken then 1 + (pagesDiffer (s.pc + sext16 off) s.pc).toNat else 0 := by
  have hpage := pagesDiffer_iff (s.pc + sext16 off) s.pc
  rw [branchCycles, h]
  cases taken <;> cases hdiffer : pagesDiffer (s.pc + sext16 off) s.pc <;> simp_all

/-- A branch instruction ends in one call of `retire` (R180). -/
theorem branch_eq_retire {s : State} {i : Instr} {taken : Bool} {off : Byte} (h : branchOf s i = some (taken, off))
    (o : Op) {cond : Bool} (hcond : cond = taken) :
    branch o cond off s = retire o .rel false (branchCycles s i) (s.setPc (branchTarget s cond off)) := by
  rw [branch_eq, branchCycles_of_branchOf h, ← hcond, branchTarget]

/-- Every instruction but UNKNOWN ends in one call of `retire`, on its effect. -/
theorem exec_eq_retire (s : State) {i : Instr} (h : i.op ≠ .unknown) :
    exec i s = retire i.op i.mode (crossing s i) (branchCycles s i) (effect s i) := by
  cases i with
  | unknown b => exact absurd rfl h
  | adc o | sbc o | and o | ora o | eor o | cmp o | cpx o | cpy o | lda o | ldx o | ldy o | asl o | lsr o | rol o
  | ror o => cases o <;> rfl
  | bcc off | bcs off | beq off | bne off | bmi off | bpl off | bvc off | bvs off =>
    exact branch_eq_retire rfl _ (by simp)
  | _ => rfl

/-- No instruction touches a request latch (R24, R25) or changes a parameter (log 1). -/
theorem effect_latches_and_cfg (s : State) (i : Instr) :
    (effect s i).irqReq = s.irqReq ∧ (effect s i).nmiReq = s.nmiReq ∧ (effect s i).cfg = s.cfg := by
  cases i with
  | asl o | lsr o | rol o | ror o => cases o <;> simp [effect, State.writeBack]
  | pha | php | jsr | brk => simp [effect, State.push8, State.pushWord, State.enter_eq]
  | pla | plp | rts | rti => simp [effect, State.pull8, State.pullWord, State.returnFromEntry_eq]
  | _ => simp [effect]

theorem effect_cfg (s : State) (i : Instr) : (effect s i).cfg = s.cfg := (effect_latches_and_cfg s i).2.2

theorem pageCycles_eq (s : State) (i : Instr) : pageCycles s i = crossCycles s.cfg i.op i.mode (crossing s i) := by
  rw [pageCycles, crossing]
  cases memArgOf i with
  | none => cases hmode : s.cfg.pagePenalty <;> simp [crossCycles, hmode]
  | some m => cases hmode : s.cfg.pagePenalty <;> cases hcross : s.crosses m <;> simp [crossCycles, hmode, hcross]

/-- Off UNKNOWN, an instruction's opcode and its well-formedness are those of its operation at its mode. -/
theorem opcode_and_wf_of_ne_unknown {i : Instr} (h : i.op ≠ .unknown) :
    i.opcode = opcodeOf i.op i.mode ∧ i.wf = i.op.modes.contains i.mode := by
  cases i with
  | unknown b => exact absurd rfl h
  | _ => exact ⟨rfl, rfl⟩

theorem exists_eq_unknown {i : Instr} (h : i.op = .unknown) : ∃ b, i = .unknown b := by
  cases i with
  | unknown b => exact ⟨b, rfl⟩
  | _ => cases h

/-- A well-formed instruction completes with its effect, and `CYC` holds its cost (R244, R247). -/
theorem exec_of_wf {i : Instr} (h : i.wf = true) (s : State) : exec i s = .next ((effect s i).setCyc (cost s i)) := by
  by_cases hop : i.op = .unknown
  · obtain ⟨b, rfl⟩ := exists_eq_unknown hop
    exact if_pos h
  · obtain ⟨hopcode, hwf⟩ := opcode_and_wf_of_ne_unknown hop
    obtain ⟨op, hrow⟩ := opcodeOf_of_contains (hwf ▸ h)
    rw [exec_eq_retire s hop, retire_of_some _ hrow, effect_cfg, ← pageCycles_eq, cost, hopcode, hrow,
      Option.getD_some]

/-- A term with no row in the table is the invariant violation (R204). -/
theorem exec_of_not_wf {i : Instr} (h : i.wf = false) (s : State) : exec i s = .fault .invalidOperation := by
  by_cases hop : i.op = .unknown
  · obtain ⟨b, rfl⟩ := exists_eq_unknown hop
    exact if_neg (Bool.eq_false_iff.mp h)
  · rw [exec_eq_retire s hop, retire_of_none _ (opcodeOf_of_not_contains ((opcode_and_wf_of_ne_unknown hop).2 ▸ h))]

/-- Everything an instruction that completes can do. -/
theorem exec_eq_next {i : Instr} {s t : State} (h : exec i s = .next t) :
    i.wf = true ∧ t = (effect s i).setCyc (cost s i) := by
  cases hwf : i.wf with
  | false => rw [exec_of_not_wf hwf] at h; cases h
  | true => rw [exec_of_wf hwf] at h; cases h; exact ⟨rfl, rfl⟩

/-! ### What an effect leaves unchanged -/

section
variable (s : State) (i : Instr)

theorem effect_irqReq : (effect s i).irqReq = s.irqReq := (effect_latches_and_cfg s i).1

theorem effect_nmiReq : (effect s i).nmiReq = s.nmiReq := (effect_latches_and_cfg s i).2.1

variable {i}

theorem effect_a (h : i.op ∉ [Op.adc, .sbc, .and, .ora, .eor, .lda, .pla, .txa, .tya])
    (hshift : i.mode ≠ .imp ∨ i.op ∉ [Op.asl, .lsr, .rol, .ror]) : (effect s i).a = s.a := by
  cases i with
  | adc | sbc | and | ora | eor | lda | pla | txa | tya => simp [Instr.op] at h
  | asl o | lsr o | rol o | ror o =>
    cases o with
    | acc => simp [Instr.op, Instr.mode, ShiftArg.mode] at hshift
    | mem m => simp [effect, State.writeBack]
  | pha | php | jsr | brk => simp [effect, State.push8, State.pushWord, State.enter_eq]
  | plp | rts | rti => simp [effect, State.pull8, State.pullWord, State.returnFromEntry_eq]
  | _ => simp [effect]

theorem effect_x (h : i.op ∉ [Op.ldx, .tax, .tsx, .inx, .dex]) : (effect s i).x = s.x := by
  cases i with
  | ldx | tax | tsx | inx | dex => simp [Instr.op] at h
  | asl o | lsr o | rol o | ror o => cases o <;> simp [effect, State.writeBack]
  | pha | php | jsr | brk => simp [effect, State.push8, State.pushWord, State.enter_eq]
  | pla | plp | rts | rti => simp [effect, State.pull8, State.pullWord, State.returnFromEntry_eq]
  | _ => simp [effect]

theorem effect_y (h : i.op ∉ [Op.ldy, .tay, .iny, .dey]) : (effect s i).y = s.y := by
  cases i with
  | ldy | tay | iny | dey => simp [Instr.op] at h
  | asl o | lsr o | rol o | ror o => cases o <;> simp [effect, State.writeBack]
  | pha | php | jsr | brk => simp [effect, State.push8, State.pushWord, State.enter_eq]
  | pla | plp | rts | rti => simp [effect, State.pull8, State.pullWord, State.returnFromEntry_eq]
  | _ => simp [effect]

theorem effect_sp (h : i.op ∉ [Op.pha, .php, .pla, .plp, .jsr, .rts, .brk, .rti, .txs]) :
    (effect s i).sp = s.sp := by
  cases i with
  | pha | php | pla | plp | jsr | rts | brk | rti | txs => simp [Instr.op] at h
  | asl o | lsr o | rol o | ror o => cases o <;> simp [effect, State.writeBack]
  | _ => simp [effect]

theorem effect_pc (h : i.op ∉ [Op.bcc, .bcs, .beq, .bne, .bmi, .bpl, .bvc, .bvs, .jmp, .jsr, .rts, .rti, .brk]) :
    (effect s i).pc = s.pc := by
  cases i with
  | bcc | bcs | beq | bne | bmi | bpl | bvc | bvs | jmp | jsr | rts | rti | brk => simp [Instr.op] at h
  | asl o | lsr o | rol o | ror o => cases o <;> simp [effect, State.writeBack]
  | pha | php => simp [effect, State.push8]
  | pla | plp => simp [effect, State.pull8]
  | _ => simp [effect]

theorem effect_mem (h : i.op ∉ [Op.sta, .stx, .sty, .asl, .lsr, .rol, .ror, .inc, .dec, .pha, .php, .jsr, .brk]) :
    (effect s i).mem = s.mem := by
  cases i with
  | sta | stx | sty | asl | lsr | rol | ror | inc | dec | pha | php | jsr | brk => simp [Instr.op] at h
  | pla | plp | rts | rti => simp [effect, State.pull8, State.pullWord, State.returnFromEntry_eq]
  | _ => simp [effect]

end

/-! ### The flags an effect leaves (R22) -/

section
variable (s : State) (f : Flag)

@[simp] theorem State.flag_writeByte (a : Word) (v : Byte) : (s.writeByte a v).flag f = s.flag f := rfl

@[simp] theorem State.flag_push8 (v : Byte) : (s.push8 v).flag f = s.flag f := rfl

@[simp] theorem State.flag_pushWord (w : Word) : (s.pushWord w).flag f = s.flag f := rfl

@[simp] theorem State.flag_pull8 : s.pull8.2.flag f = s.flag f := rfl

@[simp] theorem State.flag_pullWord : s.pullWord.2.flag f = s.flag f := rfl

@[simp] theorem State.flag_writeBack (o : ShiftArg) (v : Byte) : (s.writeBack o v).flag f = s.flag f := by
  cases o <;> rfl

/-- An entry sets I and leaves the other live flags (R18, R215). -/
@[simp] theorem State.flag_enter (vector : Word) : (s.enter vector).flag f = if f = .i then true else s.flag f :=
  flagOf_withFlag s.p .i f true

/-- The return from an entry takes every flag from the pulled byte but U, which it sets (R21, R221). -/
theorem State.flag_returnFromEntry :
    s.returnFromEntry.flag f = (flagOf (s.readByte (stackAddr (s.sp + 1))) f || decide (f = .u)) :=
  flagOf_or_unused _ f

end

/-- An effect writes no flag but those R22 names for the operation. -/
theorem effect_keepsFlags (s : State) (i : Instr) : keepsFlags s (effect s i) (flagsWritten i.op) := by
  intro f hf
  cases i with
  | plp | rti => cases f <;> simp [flagsWritten, Instr.op] at hf
  | _ =>
    simp only [flagsWritten, Instr.op, List.mem_cons, not_or] at hf
    simp [effect, hf]

/-! ### What an effect does not depend on (R253) -/

/-- The state with `CYC`, the parameters and the IRQ latch replaced. -/
def State.retimed (s : State) (n : Nat) (c : Config) (q : Bool) : State := { s with cyc := n, cfg := c, irqReq := q }

section
variable (s : State) (n : Nat) (c : Config) (q : Bool)

@[simp] theorem State.effAddr_retimed (m : MemArg) : (s.retimed n c q).effAddr m = s.effAddr m := by
  cases m <;> rfl

@[simp] theorem State.crosses_retimed (m : MemArg) : (s.retimed n c q).crosses m = s.crosses m := by
  cases m <;> rfl

@[simp] theorem State.memOperand_retimed (m : MemArg) : (s.retimed n c q).memOperand m = s.memOperand m := by
  rw [State.memOperand, State.effAddr_retimed]
  rfl

@[simp] theorem State.readOperand_retimed (o : ReadArg) : (s.retimed n c q).readOperand o = s.readOperand o := by
  cases o with
  | imm b => rfl
  | mem m => exact s.memOperand_retimed n c q m

@[simp] theorem State.shiftOperand_retimed (o : ShiftArg) : (s.retimed n c q).shiftOperand o = s.shiftOperand o := by
  cases o with
  | acc => rfl
  | mem m => exact s.memOperand_retimed n c q m

@[simp] theorem State.writeBack_retimed (o : ShiftArg) (v : Byte) :
    (s.retimed n c q).writeBack o v = (s.writeBack o v).retimed n c q := by
  cases o with
  | acc => rfl
  | mem m => simp only [State.writeBack, State.effAddr_retimed]; rfl

variable {c}

/-- No effect reads or writes `CYC`, the IRQ latch or a parameter, but for BRK's read of its pad. -/
theorem effect_retimed (h : c.brkPad = s.cfg.brkPad) (i : Instr) :
    effect (s.retimed n c q) i = (effect s i).retimed n c q := by
  cases i with
  | adc o | sbc o | and o | ora o | eor o | cmp o | cpx o | cpy o | lda o | ldx o | ldy o =>
    simp only [effect, State.readOperand_retimed]
    rfl
  | asl o | lsr o | rol o | ror o =>
    simp only [effect, State.shiftOperand_retimed, State.writeBack_retimed]
    rfl
  | bit m | sta m | stx m | sty m | inc m | dec m | jmp m =>
    simp only [effect, State.memOperand_retimed, State.effAddr_retimed]
    rfl
  | brk =>
    have hpad : (s.retimed n c q).cfg.brkPad = s.cfg.brkPad := h
    simp only [effect, hpad]
    rfl
  | _ => rfl

end

/-- `withoutTiming` is a change of timing, so it commutes with every effect. -/
theorem withoutTiming_effect (s : State) (i : Instr) : withoutTiming (effect s i) = effect (withoutTiming s) i := by
  have hcommute := effect_retimed s 0 s.irqReq (c := (withoutTiming s).cfg) rfl i
  calc withoutTiming (effect s i)
    _ = (effect s i).retimed 0 (withoutTiming (effect s i)).cfg (effect s i).irqReq := rfl
    _ = (effect s i).retimed 0 (withoutTiming s).cfg s.irqReq := by
      rw [effect_irqReq, withoutTiming, effect_cfg, withoutTiming]
    _ = effect (withoutTiming s) i := hcommute.symm

/-! ### The obligations -/

/-- Settles O39: `exec_of_wf` and `exec_of_not_wf` are its two sides. -/
theorem execCompletesExactlyOnTableRows : Obligations.ExecCompletesExactlyOnTableRows := fun _ s =>
  ⟨fun h => ⟨_, exec_of_wf h s⟩, fun h => exec_of_not_wf h s⟩

/-- Settles O40: `CYC` holds the cost, whose base count is that of the instruction's opcode. -/
theorem costIsBasePlusExtras : Obligations.CostIsBasePlusExtras := by
  intro i s t b hexec hop
  obtain ⟨-, rfl⟩ := exec_eq_next hexec
  rw [State.setCyc_cyc, cost, hop, Option.getD_some]

/-- Settles O41: loading `CYC` changes no flag, and the effect keeps those the table does not mark. -/
theorem flagsChangeOnlyAsTabled : Obligations.FlagsChangeOnlyAsTabled := by
  intro i s t hexec
  obtain ⟨-, rfl⟩ := exec_eq_next hexec
  exact effect_keepsFlags s i

/-- Settles O42: one lemma about the effect for each field. -/
theorem stateChangesOnlyUnderNamedOperations : Obligations.StateChangesOnlyUnderNamedOperations := by
  intro i s t hexec
  obtain ⟨-, rfl⟩ := exec_eq_next hexec
  exact ⟨effect_a s, effect_x s, effect_y s, effect_sp s, effect_pc s, effect_mem s, effect_irqReq s i,
    effect_nmiReq s i, effect_cfg s i⟩

/-- Settles O43: `withoutTiming` commutes with the effect and forgets the cost. -/
theorem resultsDoNotDependOnCycleCounts : Obligations.ResultsDoNotDependOnCycleCounts := by
  intro i s s' t hs hexec
  obtain ⟨hwf, rfl⟩ := exec_eq_next hexec
  refine ⟨_, exec_of_wf hwf s', ?_⟩
  calc withoutTiming (effect s i)
    _ = effect (withoutTiming s) i := withoutTiming_effect s i
    _ = effect (withoutTiming s') i := by rw [hs]
    _ = withoutTiming (effect s' i) := (withoutTiming_effect s' i).symm

end Sys2Proof.Machine
end

section
/-! Addresses (spec/40_addressing_modes.md; spec/10_state.md section 2): the settled obligations about the absolute
modes, operand bytes and the stack page. -/

namespace Sys2Proof.Machine

/-- Settles O6: an index is added as a 16-bit number, and a page is the high byte. -/
theorem absoluteModesAddIndex : Obligations.AbsoluteModesAddIndex := fun s w =>
  ⟨operandIs_bytes (.abs w), operandIs_bytes (.abx w), operandIs_bytes (.aby w), rfl, rfl, add_zext16_toNat w s.x,
    add_zext16_toNat w s.y, pagesDiffer_iff (s.effAddr (.abx w)) w, pagesDiffer_iff (s.effAddr (.aby w)) w⟩

/-- Settles O8: each form of an operand by its own line of the resolver. -/
theorem operandIsByteAtEffectiveAddress : Obligations.OperandIsByteAtEffectiveAddress := fun _ _ _ =>
  ⟨rfl, rfl, rfl, rfl⟩

/-- Settles O9: no carry leaves the low byte of a stack address. -/
theorem stackAddressLiesInPageOne : Obligations.StackAddressLiesInPageOne :=
  ⟨stackAddr_toNat, fun _ _ => stackAddr_inj.mp⟩

end Sys2Proof.Machine
end

section
/-! Signed overflow and subtraction (spec/41_arith_logic.md sections 1 and 4): the 9-bit sum and the complement in signed
integer terms, and the settled obligations about ADC and SBC. -/

namespace Sys2Proof.Machine

section
variable (a m : Byte) (c : Bool)

/-- The overflow flag of a sum says that the signed sum does not fit 8 bits (41_arith_logic.md section 4). -/
theorem addWithCarry_overflow_iff_toInt :
    (addWithCarry a m c).overflow = true ↔
      a.toInt + m.toInt + c.toNat < -128 ∨ 127 < a.toInt + m.toInt + c.toNat := by
  have ha := a.isLt
  have hm := m.isLt
  have hc := c.toNat_lt
  rw [addWithCarry_overflow_iff, getLsbD_seven, getLsbD_seven, getLsbD_seven, addWithCarry_val_toNat,
    BitVec.toInt_eq_toNat_cond, BitVec.toInt_eq_toNat_cond]
  simp only [ne_eq, decide_eq_decide]
  split <;> split <;> omega

/-- The one's complement of a byte, unsigned and signed. -/
theorem complement_toNat : (m ^^^ 0xFF).toNat = 255 - m.toNat := by
  have hnot : m ^^^ 0xFF = ~~~m := BitVec.xor_allOnes
  rw [hnot, BitVec.toNat_not]

theorem complement_toInt : (m ^^^ 0xFF).toInt = -1 - m.toInt := by
  have hm := m.isLt
  rw [BitVec.toInt_eq_toNat_cond, BitVec.toInt_eq_toNat_cond, complement_toNat]
  split <;> split <;> omega

theorem subWithBorrow_val_toNat :
    (subWithBorrow a m c).val.toNat = (256 + a.toNat - m.toNat - (!c).toNat) % 256 := by
  have hm := m.isLt
  rw [subWithBorrow, addWithCarry_val_toNat, complement_toNat]
  cases c <;> simp only [Bool.not_true, Bool.not_false, Bool.toNat_true, Bool.toNat_false] <;> omega

/-- Carry out of a subtraction means that there is no borrow (R101). -/
theorem subWithBorrow_carry_iff : (subWithBorrow a m c).carry = true ↔ m.toNat + (!c).toNat ≤ a.toNat := by
  have hm := m.isLt
  rw [subWithBorrow, addWithCarry_carry_iff, complement_toNat]
  cases c <;> simp only [Bool.not_true, Bool.not_false, Bool.toNat_true, Bool.toNat_false] <;> omega

theorem subWithBorrow_overflow_iff_toInt :
    (subWithBorrow a m c).overflow = true ↔
      a.toInt - m.toInt - (!c).toNat < -128 ∨ 127 < a.toInt - m.toInt - (!c).toNat := by
  rw [subWithBorrow, addWithCarry_overflow_iff_toInt, complement_toInt]
  cases c <;> simp only [Bool.not_true, Bool.not_false, Bool.toNat_true, Bool.toNat_false] <;> omega

end

/-! ### The obligations -/

/-- Settles O11: SBC ends in `accumulate` of the subtraction, whose value, carry and overflow the lemmas above give. -/
theorem sbcSubtractsWithBorrow : Obligations.SbcSubtractsWithBorrow := by
  refine ⟨encodedAs_of_perm (by decide) (by decide), fun o s hwf => ⟨_, exec_of_wf hwf s, ?_,
    ⟨subWithBorrow_val_toNat .., ?_, nzOf_of_flags ?_ ?_, ?_⟩, fun f hf => ?_⟩⟩
  · rw [effect, State.accumulate_eq]
    rfl
  · simpa [effect] using subWithBorrow_carry_iff ..
  · simp [effect]
  · simp [effect]
  · simpa [effect] using subWithBorrow_overflow_iff_toInt ..
  · simp only [List.mem_cons, not_or] at hf
    simp [effect, hf]

/-- Settles O12: by R101 SBC is ADC of the complement, so the two effects are one. -/
theorem sbcIsAdcOfComplement : Obligations.SbcIsAdcOfComplement := fun _ s =>
  ⟨_, _, exec_of_wf rfl s, exec_of_wf rfl s, rfl⟩

/-- Settles O13: V after ADC is the overflow of its sum. -/
theorem adcOverflowIsSignedOverflow : Obligations.AdcOverflowIsSignedOverflow := by
  intro o s t hexec
  obtain ⟨-, rfl⟩ := exec_eq_next hexec
  simpa [effect] using addWithCarry_overflow_iff_toInt s.a (s.readOperand o) (s.flag .c)

end Sys2Proof.Machine
end

section
/-! Stack and flags (spec/44_stack_flags.md; spec/20_memory.md section 5): what a 16-bit push and
pull do, and the settled obligations about the stack and flag operations. -/

namespace Sys2Proof.Machine

/-! ### Stack words (R50 to R52) -/

theorem sub_one_sub_one (p : Byte) : p - 1 - 1 = p - 2 := BitVec.sub_sub p 1 1

theorem add_one_add_one (p : Byte) : p + 1 + 1 = p + 2 := BitVec.add_assoc p 1 1

theorem add_one_add_one_add_one (p : Byte) : p + 1 + 1 + 1 = p + 3 := by
  rw [add_one_add_one, BitVec.add_assoc]
  rfl

theorem sub_two_add_one (p : Byte) : p - 2 + 1 = p - 1 := by
  rw [← sub_one_sub_one, BitVec.sub_add_cancel]

/-- Stack pointers a constant apart name different bytes. -/
theorem stackAddr_sub_ne {k : Byte} (p : Byte) (hk : k ≠ 0) : stackAddr (p - k) ≠ stackAddr p := by
  rw [Ne, stackAddr_inj]
  bv_omega

theorem stackAddr_sub_two_ne (p : Byte) : stackAddr (p - 2) ≠ stackAddr (p - 1) := by
  rw [← sub_one_sub_one]
  exact stackAddr_sub_ne (p - 1) (by decide)

section
variable (s : State) (w : Word)

/-- The frame of a 16-bit push: SP down by 2, memory, nothing else. -/
theorem State.pushWord_frame : s.pushWord w = { s with sp := s.sp - 2, mem := (s.pushWord w).mem } := by
  rw [← sub_one_sub_one]
  rfl

/-- A 16-bit push puts the high byte where SP points and the low byte under it (R42). -/
theorem State.readByte_pushWord (b : Word) :
    (s.pushWord w).readByte b =
      if b = stackAddr s.sp then hi w else if b = stackAddr (s.sp - 1) then lo w else s.readByte b := by
  have hsp : (s.push8 (hi w)).sp = s.sp - 1 := rfl
  have hne := stackAddr_sub_ne (k := 1) s.sp (by decide)
  rw [State.pushWord, State.readByte_push8, State.readByte_push8, hsp]
  by_cases hb : b = stackAddr s.sp
  · rw [if_neg (hb ▸ hne.symm), if_pos hb, if_pos hb]
  · rw [if_neg hb, if_neg hb]

/-- A 16-bit pull reads the low byte above SP, then the high byte. -/
theorem State.pullWord_eq :
    s.pullWord =
      (word (s.readByte (stackAddr (s.sp + 2))) (s.readByte (stackAddr (s.sp + 1))), s.setSp (s.sp + 2)) := by
  rw [← add_one_add_one]
  rfl

end

/-! ### The obligations about the stack and the flags -/

/-- Settles O25: both operations end by pushing their byte. -/
theorem phaPhpPushByte : Obligations.PhaPhpPushByte := fun s =>
  ⟨⟨_, exec_of_wf rfl s, rfl, s.readByte_push8 s.a⟩, ⟨_, exec_of_wf rfl s, rfl, s.readByte_push8 s.readP⟩⟩

/-- Settles O26: the byte pulled is the one above SP; PLA loads A with it, PLP writes P. -/
theorem plaPlpPullByte : Obligations.PlaPlpPullByte := fun s =>
  ⟨⟨_, exec_of_wf rfl s, rfl, nzOf_and_keepsFlags (s.pull8.2.flag_loadA s.pull8.1)⟩, ⟨_, exec_of_wf rfl s, rfl⟩⟩

/-- Settles O27: SP is back where PHA found it, so PLA pulls the byte PHA pushed. -/
theorem phaThenPlaRoundTrips : Obligations.PhaThenPlaRoundTrips := by
  intro s a x y p pc
  obtain ⟨t, hpha, ht, hread⟩ := (phaPhpPushByte s).1
  obtain ⟨u, hpla, hu, -, -⟩ := (plaPlpPullByte { t with a := a, x := x, y := y, p := p, pc := pc }).1
  have hsp : t.sp + 1 = s.sp := by rw [ht, BitVec.sub_add_cancel]
  have hua : u.a = t.readByte (stackAddr (t.sp + 1)) := congrArg State.a hu
  have husp : u.sp = t.sp + 1 := congrArg State.sp hu
  have humem : u.mem = t.mem := by rw [hu]
  refine ⟨t, u, hpha, hpla, ?_, husp.trans hsp, fun b hb => ?_⟩
  · rw [hua, hsp, hread, if_pos rfl]
  · rw [State.readByte_congr humem, hread, if_neg hb]

/-- An instruction whose effect is the write of one flag writes that flag and nothing else. -/
theorem writesFlag_of_effect {i : Instr} {s : State} {f : Flag} {b : Bool} (hwf : i.wf = true)
    (heffect : effect s i = s.setFlag f b) :
    ∃ t, exec i s = .next t ∧ t = { s with p := t.p, cyc := t.cyc } ∧ t.flag f = b ∧ keepsFlags s t [f] := by
  refine ⟨_, exec_of_wf hwf s, ?_, ?_, fun g hg => ?_⟩
  · rw [heffect]
    rfl
  · simp [heffect]
  · simp only [List.mem_singleton] at hg
    simp [heffect, hg]

/-- Settles O28: the effect of each of the seven is the write of its flag. -/
theorem flagOperationsWriteOneFlag : Obligations.FlagOperationsWriteOneFlag := by
  intro s r hr
  simp only [List.mem_cons, List.not_mem_nil, or_false] at hr
  obtain rfl | rfl | rfl | rfl | rfl | rfl | rfl := hr <;> exact writesFlag_of_effect rfl rfl

end Sys2Proof.Machine
end

section
/-! Branches, call and return (spec/45_control.md sections 1 and 2): the signed offset in integer terms, and the settled
obligations. -/

namespace Sys2Proof.Machine

/-- Adding a sign-extended offset is adding a signed number modulo 65536 (R180, D19). -/
theorem add_sext16 (w : Word) (off : Byte) : w + sext16 off = BitVec.ofInt 16 (w.toNat + off.toInt) := by
  rw [BitVec.ofInt_add, BitVec.ofInt_natCast, BitVec.ofNat_toNat, BitVec.setWidth_eq]
  rfl

/-- An instruction whose effect is a branch on one flag moves PC when the flag has the tested value. -/
theorem branches_of_effect {i : Instr} {s : State} {f : Flag} {b : Bool} {off : Byte} (hwf : i.wf = true)
    (heffect : effect s i = s.setPc (branchTarget s (s.flag f == b) off)) :
    ∃ t, exec i s = .next t ∧ t = { s with pc := t.pc, cyc := t.cyc } ∧
      t.pc = if s.flag f = b then BitVec.ofInt 16 (s.pc.toNat + off.toInt) else s.pc := by
  refine ⟨_, exec_of_wf hwf s, ?_, ?_⟩
  · rw [heffect]
    rfl
  · rw [heffect, ← add_sext16]
    simp [branchTarget]

/-- Settles O29: the effect of each of the eight is a branch on its flag. -/
theorem branchesAddOffsetWhenTaken : Obligations.BranchesAddOffsetWhenTaken := by
  intro r hr off s
  simp only [List.mem_cons, List.not_mem_nil, or_false] at hr
  obtain rfl | rfl | rfl | rfl | rfl | rfl | rfl | rfl := hr <;> exact branches_of_effect rfl rfl

/-- Settles O31: JSR ends by pushing the word and replacing PC. -/
theorem jsrPushesReturnAddress : Obligations.JsrPushesReturnAddress := by
  intro target s
  refine ⟨_, exec_of_wf rfl s, ?_, fun b => ?_⟩
  · rw [effect, State.pushWord_frame]
    rfl
  · rw [State.readByte_setCyc, effect, State.readByte_setPc, State.readByte_pushWord]

/-- Settles O32: RTS ends by pulling the word. -/
theorem rtsReturnsPastPulledAddress : Obligations.RtsReturnsPastPulledAddress := by
  intro s
  refine ⟨_, exec_of_wf rfl s, ?_⟩
  rw [effect, State.pullWord_eq]
  rfl

/-- Settles O33: SP is back where JSR left it, so RTS pulls the word JSR pushed. -/
theorem jsrThenRtsRestoresPc : Obligations.JsrThenRtsRestoresPc := by
  intro target s a x y p pc
  obtain ⟨t, hjsr, ht, hread⟩ := jsrPushesReturnAddress target s
  obtain ⟨u, hrts, hu⟩ := rtsReturnsPastPulledAddress { t with a := a, x := x, y := y, p := p, pc := pc }
  have hhigh : t.sp + 2 = s.sp := by rw [ht, BitVec.sub_add_cancel]
  have hlow : t.sp + 1 = s.sp - 1 := by rw [ht, sub_two_add_one]
  have hupc : u.pc = word (t.readByte (stackAddr (t.sp + 2))) (t.readByte (stackAddr (t.sp + 1))) + 1 :=
    congrArg State.pc hu
  have husp : u.sp = t.sp + 2 := congrArg State.sp hu
  refine ⟨t, u, hjsr, hrts, ?_, husp.trans hhigh⟩
  rw [hupc, hhigh, hlow, hread, hread, if_pos rfl, if_neg (stackAddr_sub_ne s.sp (by decide)), if_pos rfl,
    word_hi_lo, BitVec.sub_add_cancel]

end Sys2Proof.Machine
end

section
/-! Entry and return (spec/60_exceptions.md sections 3 and 4; spec/46_system.md): what an entry leaves on the stack, and the
settled obligations about BRK, RTI and UNKNOWN. -/

namespace Sys2Proof.Machine

/-! ### The entry in the terms of the statements (R215) -/

section
variable (s : State) (vector : Word)

/-- The three bytes an entry pushes: PC high, PC low, and the status byte with Break and Unused set. -/
theorem State.readByte_enter (b : Word) :
    (s.enter vector).readByte b =
      if b = stackAddr s.sp then hi s.pc
      else if b = stackAddr (s.sp - 1) then lo s.pc
      else if b = stackAddr (s.sp - 2) then s.p ||| 0x30
      else s.readByte b := by
  have hpush : (s.enter vector).readByte b = ((s.pushWord s.pc).push8 (s.p ||| 0x30)).readByte b := rfl
  have hsp : (s.pushWord s.pc).sp = s.sp - 2 := by rw [State.pushWord_frame]
  have hne2 := stackAddr_sub_ne (k := 2) s.sp (by decide)
  have hne1 := stackAddr_sub_two_ne s.sp
  rw [hpush, State.readByte_push8, hsp, State.readByte_pushWord]
  by_cases hb : b = stackAddr (s.sp - 2)
  · rw [if_pos hb, if_neg (hb ▸ hne2), if_neg (hb ▸ hne1), if_pos hb]
  · rw [if_neg hb, if_neg hb]

/-- The pushes of an entry leave the vector's word as it was: no vector lies in page 0x01. -/
theorem State.enter_pc (hlow : 512 ≤ vector.toNat) (hhigh : vector.toNat < 65535) :
    (s.enter vector).pc = word (s.readByte (vector + 1)) (s.readByte vector) := by
  have hnext : (vector + 1).toNat = vector.toNat + 1 :=
    (BitVec.toNat_add vector 1).trans (Nat.mod_eq_of_lt (Nat.succ_lt_succ hhigh))
  have hread : ∀ b : Word, 512 ≤ b.toNat → ((s.pushWord s.pc).push8 (s.p ||| 0x30)).readByte b = s.readByte b := by
    intro b hb
    rw [State.readByte_push8_of_page _ _ (.inr hb), State.pushWord, State.readByte_push8_of_page _ _ (.inr hb),
      State.readByte_push8_of_page _ _ (.inr hb)]
  rw [← hread _ hlow, ← hread (vector + 1) (by omega)]
  rfl

end

/-- A state that an entry with return address `ret` leaves, with any `CYC`, is what the statements call entered. -/
theorem entered_enter (s : State) (ret : Word) {vector : Word} (n : Nat) (hlow : 512 ≤ vector.toNat)
    (hhigh : vector.toNat < 65535) : entered s ret vector (((s.setPc ret).enter vector).setCyc n) := by
  refine ⟨?_, (s.setPc ret).readByte_enter vector, by simp, fun f hf => ?_,
    (s.setPc ret).enter_pc vector hlow hhigh⟩
  · rw [State.enter_eq]
    rfl
  · simp only [List.mem_singleton] at hf
    simp [hf]

/-! ### The cost of UNKNOWN -/

/-- An unassigned byte costs UNKNOWN_CYCLES (R66, R71). -/
theorem baseCost_of_unassigned {b : Byte} (h : unassignedBytes.contains b = true) (c : Config) :
    baseCost c b = c.unknownCycles := by
  have hcell : opcodeCell b = unassignedCell := of_decide_eq_true ((unassigned_iff b).symm.trans h)
  rw [baseCost, hcell, unassignedCell, if_pos rfl]

/-! ### The obligations -/

/-- Settles O34: BRK ends by taking the entry with the padded return address. -/
theorem brkTakesEntry : Obligations.BrkTakesEntry := fun s =>
  ⟨_, exec_of_wf rfl s, entered_enter s _ _ (by decide) (by decide)⟩

/-- Settles O35: RTI ends by returning from the entry. -/
theorem rtiPullsStatusThenPc : Obligations.RtiPullsStatusThenPc := by
  intro s
  refine ⟨_, exec_of_wf rfl s, ?_⟩
  rw [effect, State.returnFromEntry_eq, add_one_add_one_add_one, add_one_add_one]
  rfl

/-- Settles O36: SP is back where the entry left it, so RTI pulls the three bytes the entry pushed. -/
theorem entryThenRtiRestoresPcAndStatus : Obligations.EntryThenRtiRestoresPcAndStatus := by
  intro vector s a x y p pc
  obtain ⟨u, hrti, hu⟩ := rtiPullsStatusThenPc { s.enter vector with a := a, x := x, y := y, p := p, pc := pc }
  have hread := s.readByte_enter vector
  have hsp : (s.enter vector).sp = s.sp - 3 := by rw [State.enter_eq]
  have hup : u.p = (s.enter vector).readByte (stackAddr ((s.enter vector).sp + 1)) ||| 0x20 := congrArg State.p hu
  have hupc : u.pc = word ((s.enter vector).readByte (stackAddr ((s.enter vector).sp + 3)))
      ((s.enter vector).readByte (stackAddr ((s.enter vector).sp + 2))) := congrArg State.pc hu
  have husp : u.sp = (s.enter vector).sp + 3 := congrArg State.sp hu
  have hstatus : s.sp - 3 + 1 = s.sp - 2 := by bv_omega
  have hlow : s.sp - 3 + 2 = s.sp - 1 := by bv_omega
  have hhigh : s.sp - 3 + 3 = s.sp := BitVec.sub_add_cancel ..
  refine ⟨u, hrti, ?_, by rw [husp, hsp, hhigh], ?_⟩
  · rw [hupc, hsp, hhigh, hlow, hread, hread, if_pos rfl, if_neg (stackAddr_sub_ne s.sp (by decide)), if_pos rfl,
      word_hi_lo]
  · rw [hup, hsp, hstatus, hread, if_neg (stackAddr_sub_ne s.sp (by decide)), if_neg (stackAddr_sub_two_ne s.sp),
      if_pos rfl, BitVec.or_assoc]
    rfl

/-- Settles O38: UNKNOWN at an unassigned byte is well formed, encodes to that byte, and has no effect. -/
theorem unknownIsOneByteNoOp : Obligations.UnknownIsOneByteNoOp := by
  refine ⟨rfl, by decide, fun b hb => ?_⟩
  have hwf : (Instr.unknown b).wf = true := List.contains_iff_mem.mpr hb
  refine ⟨fun rest => decodeOfEncodeIsInstruction (.unknown b) rest hwf, fun s => ?_⟩
  rw [exec_of_wf hwf, ← baseCost_of_unassigned hwf]
  rfl

end Sys2Proof.Machine
end

section
/-! The tick (spec/70_reset_and_hazards.md; spec/60_exceptions.md): what a fetch runs, what a boundary takes, and the settled
obligations about NOP, ticks, interrupts and reset. -/

namespace Sys2Proof.Machine

/-! ### Fetch and execute (R244) -/

/-- A fetch of any bytes runs a well-formed instruction, so it completes. -/
theorem exists_fetchExecute (s : State) :
    ∃ i, i.wf = true ∧ decode s.fetchInstr.1 = .ok (i, []) ∧ fetchExecute s = exec i s.fetchInstr.2 := by
  obtain ⟨i, hwf, -, hdecode⟩ := decode_total (op := s.readByte s.pc)
    (bytes := (List.range (opcodeCell (s.readByte s.pc)).2.operandBytes).map
      fun k => s.readByte (s.pc + 1 + BitVec.ofNat 16 k)) (by simp)
  have hbytes : decode s.fetchInstr.1 = .ok (i, []) := by
    rw [State.fetchInstr_eq, ← hdecode [], List.append_nil]
  exact ⟨i, hwf, hbytes, by rw [fetchExecute, hbytes]⟩

theorem ofNat_add_one (k : Nat) : BitVec.ofNat 16 (k + 1) = 1 + BitVec.ofNat 16 k := by
  rw [Nat.add_comm, BitVec.ofNat_add]
  rfl

/-- A fetch of an instruction's own bytes reads that instruction and leaves PC past it (R15, R63). -/
theorem fetchExecute_of_encode {i : Instr} {s : State} (hwf : i.wf = true)
    (hbytes : ∀ k b, (encode i)[k]? = some b → s.readByte (s.pc + BitVec.ofNat 16 k) = b) :
    fetchExecute s = exec i { s with pc := s.pc + BitVec.ofNat 16 i.mode.length } := by
  obtain ⟨op, hop, hcell, -⟩ := exists_opcode hwf
  have hencode := encode_of_opcode hop
  rw [hencode] at hbytes
  have hread : s.readByte s.pc = op := by simpa using hbytes 0 op rfl
  have hmode : (opcodeCell (s.readByte s.pc)).2 = i.mode := by rw [hread, hcell]
  have hfetch : s.fetchInstr =
      (encode i, s.setPc (s.pc + 1 + BitVec.ofNat 16 i.mode.operandBytes)) := by
    rw [State.fetchInstr_eq, hmode, hread, hencode]
    congr 2
    refine List.ext_getElem (by simp [operandBytes_length]) fun k hk hk' => ?_
    have hbyte := hbytes (k + 1) i.operandBytes[k] (by rw [List.getElem?_cons_succ, List.getElem?_eq_getElem hk'])
    rw [ofNat_add_one, ← BitVec.add_assoc] at hbyte
    simpa using hbyte
  have hdecode : decode (encode i) = .ok (i, []) := by simpa using decodeOfEncodeIsInstruction i [] hwf
  rw [fetchExecute, hfetch, hdecode, Mode.length, ofNat_add_one, ← BitVec.add_assoc]
  rfl

/-! ### What a boundary takes (R213, R214) -/

section
variable {s : State}

theorem boundary_of_no_request (hnmi : s.nmiReq = false) (hirq : s.irqReq = false) : boundary s = (s, none) := by
  simp [boundary, boundaryIrq, hnmi, hirq]

/-- A masked IRQ request is dropped, or kept where IRQ_MASKED_HOLD is set (D7). -/
theorem boundary_of_masked_irq (hnmi : s.nmiReq = false) (hirq : s.irqReq = true) (hi : s.flag .i = true) :
    boundary s = (s.setIrqReq s.cfg.irqMaskedHold, none) := by
  have hkeep : s.setIrqReq true = s := by rw [← hirq]; rfl
  cases hhold : s.cfg.irqMaskedHold <;> simp [boundary, boundaryIrq, hnmi, hirq, hi, hhold, hkeep]

theorem boundary_of_unmasked_irq (hnmi : s.nmiReq = false) (hirq : s.irqReq = true) (hi : s.flag .i = false) :
    boundary s = ((s.setIrqReq false).enter irqVector, some s.cfg.irqCycles) := by
  simp [boundary, boundaryIrq, hnmi, hirq, hi]

theorem boundary_of_nmi (hnmi : s.nmiReq = true) :
    boundary s = ((s.setNmiReq false).enter nmiVector, some s.cfg.nmiCycles) := by
  simp [boundary, hnmi]

end

/-! ### No instruction sees the IRQ latch -/

section
variable (s : State) (q : Bool)

theorem cost_setIrqReq (i : Instr) : cost (s.setIrqReq q) i = cost s i := by
  have hcross : (s.setIrqReq q).crosses = s.crosses := funext (s.crosses_retimed s.cyc s.cfg q)
  have hbranch : branchOf (s.setIrqReq q) i = branchOf s i := by cases i <;> rfl
  rw [cost, cost, pageCycles, pageCycles, hcross, branchCycles, branchCycles, hbranch]
  rfl

theorem exec_setIrqReq {i : Instr} (hwf : i.wf = true) :
    exec i (s.setIrqReq q) = .next (((effect s i).setCyc (cost s i)).setIrqReq q) := by
  have heffect : effect (s.setIrqReq q) i = (effect s i).retimed s.cyc s.cfg q := effect_retimed s s.cyc q rfl i
  rw [exec_of_wf hwf, cost_setIrqReq, heffect, ← effect_cfg s i]
  rfl

theorem fetchInstr_setIrqReq : (s.setIrqReq q).fetchInstr = (s.fetchInstr.1, s.fetchInstr.2.setIrqReq q) := by
  rw [State.fetchInstr_eq, State.fetchInstr_eq]
  rfl

end

/-- A fetch runs the same instruction with the same results, whatever the IRQ latch holds. -/
theorem fetchExecute_setIrqReq (s : State) :
    ∃ u, fetchExecute s = .next u ∧ ∀ q, fetchExecute (s.setIrqReq q) = .next (u.setIrqReq q) := by
  obtain ⟨i, hwf, hdecode, hfetch⟩ := exists_fetchExecute s
  refine ⟨_, hfetch.trans (exec_of_wf hwf _), fun q => ?_⟩
  rw [fetchExecute, fetchInstr_setIrqReq, hdecode]
  exact exec_setIrqReq s.fetchInstr.2 q hwf

/-! ### The obligations about fetches -/

/-- Settles O44: with no request the tick fetches, and the bytes at PC are the instruction's own. -/
theorem stepRunsDecodedInstruction : Obligations.StepRunsDecodedInstruction := by
  intro i s hwf hcyc hnmi hirq hbytes
  have hexec := exec_of_wf hwf { s with pc := s.pc + BitVec.ofNat 16 i.mode.length }
  refine ⟨_, hexec, ?_⟩
  rw [step_of_fetch s hcyc (boundary_of_no_request hnmi hirq), fetchExecute_of_encode hwf hbytes, hexec]
  rfl

/-- Settles O37: NOP has no effect, and its one byte at PC is the instruction the tick runs. -/
theorem nopChangesNothing : Obligations.NopChangesNothing := by
  have hexec : ∀ s : State, exec .nop s = .next { s with cyc := baseCost s.cfg 0xEA } := exec_of_wf rfl
  refine ⟨encodedAs_of_perm (by decide) (by decide), rfl, hexec, fun s hcyc hnmi hirq hbyte => ?_⟩
  have hbytes : ∀ k b, (encode .nop)[k]? = some b → s.readByte (s.pc + BitVec.ofNat 16 k) = b := by
    rintro (_ | k) b hb
    · cases hb
      simpa using hbyte
    · cases hb
  obtain ⟨t, ht, hstep⟩ := stepRunsDecodedInstruction .nop s rfl hcyc hnmi hirq hbytes
  rw [hexec] at ht
  cases ht
  exact hstep

/-- Settles O48: the boundary leaves the latch as the parameter says, and the fetch after it does not see the latch. -/
theorem maskedIrqIsIgnored : Obligations.MaskedIrqIsIgnored := by
  intro s hcyc hnmi hirq hi
  obtain ⟨u, hu, huq⟩ := fetchExecute_setIrqReq { s with irqReq := false }
  refine ⟨u.countdown, ?_, ?_⟩
  · rw [step_of_fetch { s with irqReq := false } hcyc (boundary_of_no_request hnmi rfl), hu, countdownAfter]
  · rw [step_of_fetch s hcyc (boundary_of_masked_irq hnmi hirq hi)]
    exact congrArg countdownAfter (huq s.cfg.irqMaskedHold)

/-! ### The obligations about the other ticks and events -/

/-- Settles O45: the countdown branch of the tick. -/
theorem countdownTickChangesCycOnly : Obligations.CountdownTickChangesCycOnly := fun s h => step_of_pos s h.ne'

/-- Settles O46: the boundary takes the entry through the NMI vector first. -/
theorem nmiIsTakenAtBoundary : Obligations.NmiIsTakenAtBoundary := fun s hcyc hnmi =>
  ⟨_, step_of_entry s hcyc (boundary_of_nmi hnmi), entered_enter (s.setNmiReq false) s.pc _ (by decide) (by decide), rfl⟩

/-- Settles O47: the boundary takes the entry through the IRQ vector. -/
theorem irqIsTakenAtBoundaryWhenUnmasked : Obligations.IrqIsTakenAtBoundaryWhenUnmasked := fun s hcyc hnmi hirq hi =>
  ⟨_, step_of_entry s hcyc (boundary_of_unmasked_irq hnmi hirq hi),
    entered_enter (s.setIrqReq false) s.pc _ (by decide) (by decide), rfl⟩

/-- Settles O49: CLI leaves the latches and clears I, so the next boundary takes the entry. -/
theorem pendingIrqIsTakenRightAfterCli : Obligations.PendingIrqIsTakenRightAfterCli := by
  intro s hnmi hirq
  refine ⟨_, exec_of_wf rfl s, ?_⟩
  obtain ⟨u, hstep, ⟨hframe, hread, -, -, hpc⟩, -⟩ :=
    irqIsTakenAtBoundaryWhenUnmasked ((s.setFlag .i false).setCyc 0) rfl hnmi hirq (by simp)
  exact ⟨u, hstep, by rw [hframe], hpc, (hread _).trans (if_pos rfl)⟩

/-- Settles O50: the reset sequence assigns every field. -/
theorem resetSequenceLoadsPowerUpValues : Obligations.ResetSequenceLoadsPowerUpValues := fun _ _ _ _ =>
  ⟨_, rfl, rfl, rfl, rfl, rfl, rfl, rfl, rfl, rfl, rfl, rfl, rfl⟩

/-- Settles O51: each request is the write of its latch. -/
theorem requestsSetTheirLatchOnly : Obligations.RequestsSetTheirLatchOnly := fun _ =>
  ⟨_, _, rfl, rfl, rfl, rfl, rfl, rfl⟩

end Sys2Proof.Machine
end

section
/-! The invariant and safety (spec/10_state.md sections 4 and 5; spec/00_scope.md section 5): everything a step can do, the
bounds on what it loads into `CYC`, what an effect does to the invariant, and the settled obligations. -/

namespace Sys2Proof.Machine

/-! ### Everything a step can do (R213, R244, R245) -/

/-- A step counts down, takes an entry, or runs a well-formed instruction past its own bytes. -/
inductive StepResult (s : State) : State → Prop where
  | countdown : StepResult s (s.setCyc (s.cyc - 1))
  | nmi : StepResult s (((s.setNmiReq false).enter nmiVector).setCyc (s.cfg.nmiCycles - 1))
  | irq : StepResult s (((s.setIrqReq false).enter irqVector).setCyc (s.cfg.irqCycles - 1))
  | instr (q : Bool) (pc : Word) (i : Instr) (hwf : i.wf = true) :
    StepResult s
      ((effect ((s.setIrqReq q).setPc pc) i).setCyc (cost ((s.setIrqReq q).setPc pc) i - 1))

theorem fetchInstr_snd (s : State) : s.fetchInstr.2 = s.setPc s.fetchInstr.2.pc := by
  rw [State.fetchInstr_eq]
  rfl

/-- A boundary that takes no entry runs an instruction. -/
theorem exists_step_of_fetch {s : State} (q : Bool) (hcyc : s.cyc = 0) (hb : boundary s = (s.setIrqReq q, none)) :
    ∃ t, step s = .next t ∧ StepResult s t := by
  obtain ⟨i, hwf, -, hfetch⟩ := exists_fetchExecute (s.setIrqReq q)
  rw [fetchInstr_snd, exec_of_wf hwf] at hfetch
  refine ⟨_, ?_, .instr q (s.setIrqReq q).fetchInstr.2.pc i hwf⟩
  rw [step_of_fetch s hcyc hb, hfetch]
  rfl

/-- Every step answers a next state, and one of the four kinds. -/
theorem exists_step (s : State) : ∃ t, step s = .next t ∧ StepResult s t := by
  by_cases hcyc : s.cyc = 0
  · cases hnmi : s.nmiReq with
    | true => exact ⟨_, step_of_entry s hcyc (boundary_of_nmi hnmi), .nmi⟩
    | false =>
      cases hirq : s.irqReq with
      | false => exact exists_step_of_fetch s.irqReq hcyc (boundary_of_no_request hnmi hirq)
      | true =>
        cases hi : s.flag .i with
        | false => exact ⟨_, step_of_entry s hcyc (boundary_of_unmasked_irq hnmi hirq hi), .irq⟩
        | true => exact exists_step_of_fetch _ hcyc (boundary_of_masked_irq hnmi hirq hi)
  · exact ⟨_, step_of_pos s hcyc, .countdown⟩

theorem stepResult_of_step {s t : State} (h : step s = .next t) : StepResult s t := by
  obtain ⟨u, hu, hresult⟩ := exists_step s
  rw [h] at hu
  cases hu
  exact hresult

/-! ### What `CYC` is loaded with (R23, R94, R180, R247) -/

theorem pageCycles_le_one (s : State) (i : Instr) : pageCycles s i ≤ 1 := by
  rw [pageCycles]
  split
  · split <;> decide
  · exact Nat.zero_le 1

theorem branchCycles_le_two (s : State) (i : Instr) : branchCycles s i ≤ 2 := by
  rw [branchCycles]
  split
  · split <;> decide
  · exact Nat.zero_le 2

/-- An instruction pays for a page crossing or, at mode REL, for a branch; never for both. -/
theorem extraCycles_cases (s : State) (i : Instr) :
    branchCycles s i = 0 ∨ pageCycles s i = 0 ∧ i.mode = .rel := by
  cases i with
  | bcc off | bcs off | beq off | bne off | bmi off | bpl off | bvc off | bvs off => exact .inr ⟨rfl, rfl⟩
  | _ => exact .inl rfl

/-- UNKNOWN costs UNKNOWN_CYCLES; any other well-formed instruction the base count of its opcode, whose cell is its own,
and its extra cycles. -/
theorem cost_cases {i : Instr} (hwf : i.wf = true) (s : State) :
    cost s i = s.cfg.unknownCycles ∨
    ∃ op, (opcodeCell op).2 = i.mode ∧
      cost s i = s.cfg.baseCycles.getD op.toNat 0 + pageCycles s i + branchCycles s i := by
  obtain ⟨op, hop, hcell, -⟩ := exists_opcode hwf
  by_cases hunknown : i.op = .unknown
  · obtain ⟨b, rfl⟩ := exists_eq_unknown hunknown
    exact .inl (baseCost_of_unassigned hwf s.cfg)
  · refine .inr ⟨op, by rw [hcell], ?_⟩
    rw [cost, hop, Option.getD_some, baseCost, hcell, if_neg hunknown]

theorem getD_le_maxCount (l : List Nat) (k : Nat) : l.getD k 0 ≤ maxCount l := by
  induction l generalizing k with
  | nil => exact Nat.zero_le _
  | cons n rest ih =>
    cases k with
    | zero => exact le_max_left n (maxCount rest)
    | succ k => exact (ih k).trans (le_max_right n (maxCount rest))

section
variable (c : Config)

theorem resetCycles_le_cycBound : c.resetCycles ≤ cycBound c := by
  rw [cycBound]
  omega

theorem irqCycles_le_cycBound : c.irqCycles ≤ cycBound c := by
  rw [cycBound]
  omega

theorem nmiCycles_le_cycBound : c.nmiCycles ≤ cycBound c := by
  rw [cycBound]
  omega

theorem unknownCycles_le_cycBound : c.unknownCycles ≤ cycBound c := by
  rw [cycBound]
  omega

theorem maxCount_le_cycBound : maxCount c.baseCycles + 2 ≤ cycBound c := le_max_right _ _

end

theorem cost_le_cycBound {i : Instr} (hwf : i.wf = true) (s : State) : cost s i ≤ cycBound s.cfg := by
  obtain hcost | ⟨op, -, hcost⟩ := cost_cases hwf s
  · exact hcost ▸ unknownCycles_le_cycBound s.cfg
  · have hbase := getD_le_maxCount s.cfg.baseCycles op.toNat
    have hbound := maxCount_le_cycBound s.cfg
    have hpage := pageCycles_le_one s i
    have hbranch := branchCycles_le_two s i
    obtain hextra | ⟨hextra, -⟩ := extraCycles_cases s i <;> omega

/-- No base count of R69 is above 7. -/
theorem defaultBaseCycles_le (b : Byte) : defaultBaseCycles.getD b.toNat 0 ≤ 7 := by
  revert b
  decide

/-- Every branch has the base count 2 in R69. -/
theorem defaultBaseCycles_of_rel (b : Byte) : (opcodeCell b).2 = .rel → defaultBaseCycles.getD b.toNat 0 = 2 := by
  revert b
  decide

theorem cost_le_eight {i : Instr} (hwf : i.wf = true) {s : State} (hbase : s.cfg.baseCycles = defaultBaseCycles)
    (hunknown : s.cfg.unknownCycles ≤ 8) : cost s i ≤ 8 := by
  obtain hcost | ⟨op, hmode, hcost⟩ := cost_cases hwf s
  · exact hcost ▸ hunknown
  · have hpage := pageCycles_le_one s i
    have hbranch := branchCycles_le_two s i
    have hle := defaultBaseCycles_le op
    rw [hbase] at hcost
    obtain hextra | ⟨hextra, hrel⟩ := extraCycles_cases s i
    · omega
    · have htwo := defaultBaseCycles_of_rel op (hmode.trans hrel)
      omega

/-! ### What an effect does to memory and to bit 5 of P -/

/-- Every effect keeps the canonical form of memory (R45). -/
theorem wf_effect {s : State} (h : Memory.wf s.mem) (i : Instr) : Memory.wf (effect s i).mem := by
  cases i with
  | asl o | lsr o | rol o | ror o =>
    cases o with
    | acc => exact h
    | mem m =>
      rw [effect, State.setShift_mem]
      exact s.wf_writeByte h _ _
  | inc m | dec m =>
    rw [effect, State.setNZ_mem]
    exact s.wf_writeByte h _ _
  | sta | stx | sty => exact s.wf_writeByte h _ _
  | pha | php => exact s.wf_push8 h _
  | jsr target =>
    rw [effect, State.setPc_mem]
    exact s.wf_pushWord h _
  | brk =>
    rw [effect]
    exact State.wf_enter (s.setPc (s.pc + BitVec.ofNat 16 s.cfg.brkPad.val)) h irqVector
  | _ =>
    rw [effect_mem s (by simp [Instr.op])]
    exact h

/-- Every effect keeps bit 5 of P set (R17): PLP and RTI, which alone write it, set it. -/
theorem flag_u_effect {s : State} (h : s.flag .u = true) (i : Instr) : (effect s i).flag .u = true := by
  cases i with
  | plp => simp [effect]
  | rti => simp [effect, State.flag_returnFromEntry]
  | _ => exact (effect_keepsFlags s _ .u (by simp [flagsWritten, Instr.op])).trans h

/-! ### The invariant -/

theorem inv_resetSequence {s : State} (h : Memory.wf s.mem) (a x y : Byte) : (s.resetSequence a x y).Inv where
  mem_wf := h
  unused_set := (flagOf_or_unused s.cfg.pReset .u).trans (by simp)
  cyc_le := resetCycles_le_cycBound s.cfg

theorem inv_setCyc {s : State} {n : Nat} (hmem : Memory.wf s.mem) (hu : s.flag .u = true)
    (hn : n ≤ cycBound s.cfg) : (s.setCyc (n - 1)).Inv :=
  ⟨hmem, hu, (Nat.sub_le n 1).trans hn⟩

theorem inv_enter {s : State} (hmem : Memory.wf s.mem) (hu : s.flag .u = true) (vector : Word) {n : Nat}
    (hn : n ≤ cycBound s.cfg) : ((s.enter vector).setCyc (n - 1)).Inv := by
  have hcfg : (s.enter vector).cfg = s.cfg := by rw [State.enter_eq]
  exact inv_setCyc (s.wf_enter hmem vector) (by simpa using hu) (hcfg.symm ▸ hn : n ≤ cycBound (s.enter vector).cfg)

/-- Everything a step can do keeps the invariant. -/
theorem inv_of_stepResult {s t : State} (hinv : s.Inv) (h : StepResult s t) : t.Inv := by
  obtain ⟨hmem, hu, hcyc⟩ := hinv
  cases h with
  | countdown => exact inv_setCyc hmem hu hcyc
  | nmi => exact inv_enter (s := s.setNmiReq false) hmem hu nmiVector (nmiCycles_le_cycBound s.cfg)
  | irq => exact inv_enter (s := s.setIrqReq false) hmem hu irqVector (irqCycles_le_cycBound s.cfg)
  | instr q pc i hwf =>
    let u := (s.setIrqReq q).setPc pc
    have hcost : cost u i ≤ cycBound (effect u i).cfg := effect_cfg u i ▸ cost_le_cycBound hwf u
    exact inv_setCyc (wf_effect (s := u) hmem i) (flag_u_effect (s := u) hu i) hcost

theorem inv_of_handle {e : Event} {s t : State} (hinv : s.Inv) (h : handle e s = .next t) : t.Inv := by
  obtain ⟨hmem, hu, hcyc⟩ := hinv
  cases e with
  | tick => exact inv_of_stepResult ⟨hmem, hu, hcyc⟩ (stepResult_of_step h)
  | reset a x y => cases h; exact inv_resetSequence hmem a x y
  | raiseIrq => cases h; exact ⟨hmem, hu, hcyc⟩
  | raiseNmi => cases h; exact ⟨hmem, hu, hcyc⟩
  | hostWrite addr v => cases h; exact ⟨s.wf_writeByte hmem addr v, hu, hcyc⟩

/-- Every event answers a next state. -/
theorem exists_handle (e : Event) (s : State) : ∃ t, handle e s = .next t := by
  cases e with
  | tick =>
    obtain ⟨t, ht, -⟩ := exists_step s
    exact ⟨t, ht⟩
  | _ => exact ⟨_, rfl⟩

/-! ### The obligations -/

/-- Settles O52: the reset state is what the reset sequence leaves of itself, over empty memory. -/
theorem resetStateMeetsInvariant : Obligations.ResetStateMeetsInvariant :=
  inv_resetSequence (s := State.reset) Memory.wf_nil 0 0 0

/-- Settles O53: everything a step can do keeps the invariant. -/
theorem stepKeepsInvariant : Obligations.StepKeepsInvariant := fun _ _ hinv h =>
  inv_of_stepResult hinv (stepResult_of_step h)

/-- Settles O54, by induction on the events: each of them keeps the invariant. -/
theorem everyEventSequenceKeepsInvariant : Obligations.EveryEventSequenceKeepsInvariant := fun es s _ hinv h =>
  runEvents_induction s (fun _ _ _ => inv_of_handle) es hinv h

/-- Settles O55, by induction on the events: each of them answers a next state. -/
theorem noEventSequenceStopsTheMachine : Obligations.NoEventSequenceStopsTheMachine := by
  intro es
  induction es with
  | nil => exact fun s => ⟨s, rfl⟩
  | cons e rest ih =>
    intro s
    obtain ⟨t, ht⟩ := exists_handle e s
    obtain ⟨u, hu⟩ := ih t
    refine ⟨u, ?_⟩
    rw [runEvents, ht]
    exact hu

/-- Settles O56: whatever a step loads into `CYC` is within the bound, and it counts down once. -/
theorem cycStaysBelowLargestCost : Obligations.CycStaysBelowLargestCost := by
  intro s t hbase hunknown hcyc hstep
  cases stepResult_of_step hstep with
  | countdown => exact Nat.sub_le_sub_right hcyc 1
  | nmi => exact Nat.sub_le_sub_right (show s.cfg.nmiCycles ≤ _ by omega) 1
  | irq => exact Nat.sub_le_sub_right (show s.cfg.irqCycles ≤ _ by omega) 1
  | instr q pc i hwf =>
    have hcost := cost_le_eight hwf (s := (s.setIrqReq q).setPc pc) hbase hunknown
    exact Nat.sub_le_sub_right (hcost.trans (by omega)) 1

end Sys2Proof.Machine
end
